-- ==== Sys2Proof/Word.lean ====
section
/-! DEFINITION. The bit vectors of the machine, by the widths 00_scope.md R5 and 30_encoding.md R91 give.
All values are unsigned (00_scope.md R6). -/

namespace Sys2Proof

/-- A byte: a general register, a timer, a memory cell, the field `kk`. -/
abbrev Byte := BitVec 8

/-- A 16-bit value: `I`, `pc`, a stack entry, the opcode latch, an instruction word. -/
abbrev Word := BitVec 16

/-- The 12-bit field `nnn`. -/
abbrev Addr12 := BitVec 12

/-- A 4-bit field: the primary opcode `t`, the count `n`. -/
abbrev Nibble := BitVec 4

/-- The number of a general register, `V[0]` to `V[15]` (10_state.md R20): the fields `x` and `y`. -/
abbrev Reg := BitVec 4

/-- VF, the second name of `V[15]` (10_state.md R22). -/
def vf : Reg := 15#4

end Sys2Proof
end

