-- ==== Sys2Proof/WellFormed.lean ====
section
/-! DEFINITION. Which words and which instructions are well formed. A WORD is legal if it matches a row of
30_encoding.md R96 (R95, R100): that is the check that can fail. An INSTRUCTION is well formed if its operands lie
in the ranges of R94 and R20; the operand types have exactly those widths, so every term of `Instr` is well formed
(Laws/Decode.lean, `wellFormed_all`), as R101 says: a word is one of the 34 instructions or it is a decode failure. -/

namespace Sys2Proof

/-- A row of the opcode table: its mnemonic in spec/opcode_table.json, its match and its mask. -/
structure Row where
  mnemonic : String
  pattern : Word
  mask : Word
  deriving DecidableEq, Repr

/-- `op AND mask = match` selects the row (30_encoding.md R96). -/
def Row.selects (r : Row) (w : Word) : Bool := w &&& r.mask == r.pattern

/-- The rows of 30_encoding.md R96 with primary opcode 0 to 7. -/
def rows0to7 : List Row :=
  [ ⟨"CLS", 0x00E0#16, 0xFFFF#16⟩,
    ⟨"RET", 0x00EE#16, 0xFFFF#16⟩,
    ⟨"JP_nnn", 0x1000#16, 0xF000#16⟩,
    ⟨"CALL_nnn", 0x2000#16, 0xF000#16⟩,
    ⟨"SE_Vx__kk", 0x3000#16, 0xF000#16⟩,
    ⟨"SNE_Vx__kk", 0x4000#16, 0xF000#16⟩,
    ⟨"SE_Vx__Vy", 0x5000#16, 0xF00F#16⟩,
    ⟨"LD_Vx__kk", 0x6000#16, 0xF000#16⟩,
    ⟨"ADD_Vx__kk", 0x7000#16, 0xF000#16⟩ ]

/-- The rows of 30_encoding.md R96 with primary opcode 8 and 9. -/
def rows8and9 : List Row :=
  [ ⟨"LD_Vx__Vy", 0x8000#16, 0xF00F#16⟩,
    ⟨"OR_Vx__Vy", 0x8001#16, 0xF00F#16⟩,
    ⟨"AND_Vx__Vy", 0x8002#16, 0xF00F#16⟩,
    ⟨"XOR_Vx__Vy", 0x8003#16, 0xF00F#16⟩,
    ⟨"ADD_Vx__Vy", 0x8004#16, 0xF00F#16⟩,
    ⟨"SUB_Vx__Vy", 0x8005#16, 0xF00F#16⟩,
    ⟨"SHR_Vx", 0x8006#16, 0xF00F#16⟩,
    ⟨"SUBN_Vx__Vy", 0x8007#16, 0xF00F#16⟩,
    ⟨"SHL_Vx", 0x800E#16, 0xF00F#16⟩,
    ⟨"SNE_Vx__Vy", 0x9000#16, 0xF00F#16⟩ ]

/-- The rows of 30_encoding.md R96 with primary opcode A to D. -/
def rowsAtoD : List Row :=
  [ ⟨"LD_I__nnn", 0xA000#16, 0xF000#16⟩,
    ⟨"JP_V0__nnn", 0xB000#16, 0xF000#16⟩,
    ⟨"RND_Vx__kk", 0xC000#16, 0xF000#16⟩,
    ⟨"DRW_Vx__Vy__n", 0xD000#16, 0xF000#16⟩ ]

/-- The rows of 30_encoding.md R96 with primary opcode E and F. -/
def rowsEandF : List Row :=
  [ ⟨"SKP_Vx", 0xE09E#16, 0xF0FF#16⟩,
    ⟨"SKNP_Vx", 0xE0A1#16, 0xF0FF#16⟩,
    ⟨"LD_Vx__DT", 0xF007#16, 0xF0FF#16⟩,
    ⟨"LD_Vx__K", 0xF00A#16, 0xF0FF#16⟩,
    ⟨"LD_DT__Vx", 0xF015#16, 0xF0FF#16⟩,
    ⟨"LD_ST__Vx", 0xF018#16, 0xF0FF#16⟩,
    ⟨"ADD_I__Vx", 0xF01E#16, 0xF0FF#16⟩,
    ⟨"LD_F__Vx", 0xF029#16, 0xF0FF#16⟩,
    ⟨"LD_B__Vx", 0xF033#16, 0xF0FF#16⟩,
    ⟨"LD__I___Vx", 0xF055#16, 0xF0FF#16⟩,
    ⟨"LD_Vx___I", 0xF065#16, 0xF0FF#16⟩ ]

/-- The 34 rows of 30_encoding.md R96, in the order of spec/opcode_table.json. -/
def rows : List Row := rows0to7 ++ rows8and9 ++ rowsAtoD ++ rowsEandF

/-- A word that selects an instruction (30_encoding.md R95); every other word is illegal (R100). -/
def legalWord (w : Word) : Bool := rows.any (·.selects w)

/-- The row of an instruction. -/
def Instr.row : Instr → Row
  | .cls => ⟨"CLS", 0x00E0#16, 0xFFFF#16⟩
  | .ret => ⟨"RET", 0x00EE#16, 0xFFFF#16⟩
  | .jp _ => ⟨"JP_nnn", 0x1000#16, 0xF000#16⟩
  | .call _ => ⟨"CALL_nnn", 0x2000#16, 0xF000#16⟩
  | .seImm _ _ => ⟨"SE_Vx__kk", 0x3000#16, 0xF000#16⟩
  | .sneImm _ _ => ⟨"SNE_Vx__kk", 0x4000#16, 0xF000#16⟩
  | .seReg _ _ => ⟨"SE_Vx__Vy", 0x5000#16, 0xF00F#16⟩
  | .ldImm _ _ => ⟨"LD_Vx__kk", 0x6000#16, 0xF000#16⟩
  | .addImm _ _ => ⟨"ADD_Vx__kk", 0x7000#16, 0xF000#16⟩
  | .ldReg _ _ => ⟨"LD_Vx__Vy", 0x8000#16, 0xF00F#16⟩
  | .orReg _ _ => ⟨"OR_Vx__Vy", 0x8001#16, 0xF00F#16⟩
  | .andReg _ _ => ⟨"AND_Vx__Vy", 0x8002#16, 0xF00F#16⟩
  | .xorReg _ _ => ⟨"XOR_Vx__Vy", 0x8003#16, 0xF00F#16⟩
  | .addReg _ _ => ⟨"ADD_Vx__Vy", 0x8004#16, 0xF00F#16⟩
  | .subReg _ _ => ⟨"SUB_Vx__Vy", 0x8005#16, 0xF00F#16⟩
  | .shr _ => ⟨"SHR_Vx", 0x8006#16, 0xF00F#16⟩
  | .subnReg _ _ => ⟨"SUBN_Vx__Vy", 0x8007#16, 0xF00F#16⟩
  | .shl _ => ⟨"SHL_Vx", 0x800E#16, 0xF00F#16⟩
  | .sneReg _ _ => ⟨"SNE_Vx__Vy", 0x9000#16, 0xF00F#16⟩
  | .ldI _ => ⟨"LD_I__nnn", 0xA000#16, 0xF000#16⟩
  | .jpV0 _ => ⟨"JP_V0__nnn", 0xB000#16, 0xF000#16⟩
  | .rnd _ _ => ⟨"RND_Vx__kk", 0xC000#16, 0xF000#16⟩
  | .drw _ _ _ => ⟨"DRW_Vx__Vy__n", 0xD000#16, 0xF000#16⟩
  | .skp _ => ⟨"SKP_Vx", 0xE09E#16, 0xF0FF#16⟩
  | .sknp _ => ⟨"SKNP_Vx", 0xE0A1#16, 0xF0FF#16⟩
  | .ldVxDt _ => ⟨"LD_Vx__DT", 0xF007#16, 0xF0FF#16⟩
  | .ldVxK _ => ⟨"LD_Vx__K", 0xF00A#16, 0xF0FF#16⟩
  | .ldDtVx _ => ⟨"LD_DT__Vx", 0xF015#16, 0xF0FF#16⟩
  | .ldStVx _ => ⟨"LD_ST__Vx", 0xF018#16, 0xF0FF#16⟩
  | .addI _ => ⟨"ADD_I__Vx", 0xF01E#16, 0xF0FF#16⟩
  | .ldF _ => ⟨"LD_F__Vx", 0xF029#16, 0xF0FF#16⟩
  | .ldB _ => ⟨"LD_B__Vx", 0xF033#16, 0xF0FF#16⟩
  | .ldMemVx _ => ⟨"LD__I___Vx", 0xF055#16, 0xF0FF#16⟩
  | .ldVxMem _ => ⟨"LD_Vx___I", 0xF065#16, 0xF0FF#16⟩

/-- The operands lie in the ranges of 30_encoding.md R94 and 10_state.md R20. -/
def Instr.wellFormed : Instr → Bool
  | .cls => true
  | .ret => true
  | .jp nnn => decide (nnn.toNat < 4096)
  | .call nnn => decide (nnn.toNat < 4096)
  | .seImm x kk => decide (x.toNat < 16 ∧ kk.toNat < 256)
  | .sneImm x kk => decide (x.toNat < 16 ∧ kk.toNat < 256)
  | .seReg x y => decide (x.toNat < 16 ∧ y.toNat < 16)
  | .ldImm x kk => decide (x.toNat < 16 ∧ kk.toNat < 256)
  | .addImm x kk => decide (x.toNat < 16 ∧ kk.toNat < 256)
  | .ldReg x y => decide (x.toNat < 16 ∧ y.toNat < 16)
  | .orReg x y => decide (x.toNat < 16 ∧ y.toNat < 16)
  | .andReg x y => decide (x.toNat < 16 ∧ y.toNat < 16)
  | .xorReg x y => decide (x.toNat < 16 ∧ y.toNat < 16)
  | .addReg x y => decide (x.toNat < 16 ∧ y.toNat < 16)
  | .subReg x y => decide (x.toNat < 16 ∧ y.toNat < 16)
  | .shr x => decide (x.toNat < 16)
  | .subnReg x y => decide (x.toNat < 16 ∧ y.toNat < 16)
  | .shl x => decide (x.toNat < 16)
  | .sneReg x y => decide (x.toNat < 16 ∧ y.toNat < 16)
  | .ldI nnn => decide (nnn.toNat < 4096)
  | .jpV0 nnn => decide (nnn.toNat < 4096)
  | .rnd x kk => decide (x.toNat < 16 ∧ kk.toNat < 256)
  | .drw x y n => decide (x.toNat < 16 ∧ y.toNat < 16 ∧ n.toNat < 16)
  | .skp x => decide (x.toNat < 16)
  | .sknp x => decide (x.toNat < 16)
  | .ldVxDt x => decide (x.toNat < 16)
  | .ldVxK x => decide (x.toNat < 16)
  | .ldDtVx x => decide (x.toNat < 16)
  | .ldStVx x => decide (x.toNat < 16)
  | .addI x => decide (x.toNat < 16)
  | .ldF x => decide (x.toNat < 16)
  | .ldB x => decide (x.toNat < 16)
  | .ldMemVx x => decide (x.toNat < 16)
  | .ldVxMem x => decide (x.toNat < 16)

end Sys2Proof
end

