-- ==== Sys2Proof/Decode.lean ====
section
/-! DEFINITION. The instruction decoder (30_encoding.md R90 to R102), total on any bytes, rejecting by name; then
the encoder, written from the patterns of R92 and R96. -/

namespace Sys2Proof

/-- Why bytes are no instruction: too few of them, or one of the six classes of illegal words of
30_encoding.md R100. -/
inductive Reject where
  /-- fewer than the two bytes of an instruction word (R90) -/
  | tooShort
  /-- `0nnn` other than 00E0 and 00EE -/
  | illegal0nnn
  /-- `5xyn` with `n` not 0 -/
  | illegal5xyn
  /-- `8xyn` with `n` in 8, 9, A, B, C, D, F -/
  | illegal8xyn
  /-- `9xyn` with `n` not 0 -/
  | illegal9xyn
  /-- `Exkk` with `kk` not 9E or A1 -/
  | illegalExkk
  /-- `Fxkk` with `kk` none of 07, 0A, 15, 18, 1E, 29, 33, 55, 65 -/
  | illegalFxkk
  deriving DecidableEq, Repr

/-! ## The fields of a word (30_encoding.md R91) -/

/-- `t`, the primary opcode: bits 15:12. -/
def fieldT (w : Word) : Nibble := w.extractLsb' 12 4

/-- `x`: bits 11:8. -/
def fieldX (w : Word) : Reg := w.extractLsb' 8 4

/-- `y`: bits 7:4. -/
def fieldY (w : Word) : Reg := w.extractLsb' 4 4

/-- `n`: bits 3:0. -/
def fieldN (w : Word) : Nibble := w.extractLsb' 0 4

/-- `kk`: bits 7:0. -/
def fieldKK (w : Word) : Byte := w.extractLsb' 0 8

/-- `nnn`: bits 11:0. -/
def fieldNNN (w : Word) : Addr12 := w.extractLsb' 0 12

/-! ## The decoder -/

/-- Primary opcode 0: 00E0 and 00EE, all of `op[11:0]` literal. -/
def decode0 (w : Word) : Except Reject Instr :=
  match (fieldNNN w).toNat with
  | 0x0E0 => .ok .cls
  | 0x0EE => .ok .ret
  | _ => .error .illegal0nnn

/-- Primary opcode 8: the register operations, by `n`. -/
def decode8 (x y : Reg) (n : Nibble) : Except Reject Instr :=
  match n.toNat with
  | 0x0 => .ok (.ldReg x y)
  | 0x1 => .ok (.orReg x y)
  | 0x2 => .ok (.andReg x y)
  | 0x3 => .ok (.xorReg x y)
  | 0x4 => .ok (.addReg x y)
  | 0x5 => .ok (.subReg x y)
  | 0x6 => .ok (.shr x)
  | 0x7 => .ok (.subnReg x y)
  | 0xE => .ok (.shl x)
  | _ => .error .illegal8xyn

/-- Primary opcode E: the key skips, by `kk`. -/
def decodeE (x : Reg) (kk : Byte) : Except Reject Instr :=
  match kk.toNat with
  | 0x9E => .ok (.skp x)
  | 0xA1 => .ok (.sknp x)
  | _ => .error .illegalExkk

/-- Primary opcode F: timers, key wait, index and memory, by `kk`. -/
def decodeF (x : Reg) (kk : Byte) : Except Reject Instr :=
  match kk.toNat with
  | 0x07 => .ok (.ldVxDt x)
  | 0x0A => .ok (.ldVxK x)
  | 0x15 => .ok (.ldDtVx x)
  | 0x18 => .ok (.ldStVx x)
  | 0x1E => .ok (.addI x)
  | 0x29 => .ok (.ldF x)
  | 0x33 => .ok (.ldB x)
  | 0x55 => .ok (.ldMemVx x)
  | 0x65 => .ok (.ldVxMem x)
  | _ => .error .illegalFxkk

/-- One word (30_encoding.md R95): the primary opcode selects, with the secondary digits where the table has
them. A function of the word alone (R93). -/
def decodeWord (w : Word) : Except Reject Instr :=
  match (fieldT w).toNat with
  | 0x0 => decode0 w
  | 0x1 => .ok (.jp (fieldNNN w))
  | 0x2 => .ok (.call (fieldNNN w))
  | 0x3 => .ok (.seImm (fieldX w) (fieldKK w))
  | 0x4 => .ok (.sneImm (fieldX w) (fieldKK w))
  | 0x5 => if fieldN w = 0 then .ok (.seReg (fieldX w) (fieldY w)) else .error .illegal5xyn
  | 0x6 => .ok (.ldImm (fieldX w) (fieldKK w))
  | 0x7 => .ok (.addImm (fieldX w) (fieldKK w))
  | 0x8 => decode8 (fieldX w) (fieldY w) (fieldN w)
  | 0x9 => if fieldN w = 0 then .ok (.sneReg (fieldX w) (fieldY w)) else .error .illegal9xyn
  | 0xA => .ok (.ldI (fieldNNN w))
  | 0xB => .ok (.jpV0 (fieldNNN w))
  | 0xC => .ok (.rnd (fieldX w) (fieldKK w))
  | 0xD => .ok (.drw (fieldX w) (fieldY w) (fieldN w))
  | 0xE => decodeE (fieldX w) (fieldKK w)
  | _ => decodeF (fieldX w) (fieldKK w)

/-- The word of two consecutive bytes: the byte at the lower address in bits 15:8 (20_memory.md R62). -/
def wordOfBytes (b0 b1 : Byte) : Word := b0 ++ b1

/-- The byte of a word that stands at the lower address. -/
def highByte (w : Word) : Byte := w.extractLsb' 8 8

/-- The byte of a word that stands at the higher address. -/
def lowByte (w : Word) : Byte := w.extractLsb' 0 8

/-- Any bytes: the instruction of the first two, with the rest of the list. -/
def decode : List Byte → Except Reject (Instr × List Byte)
  | b0 :: b1 :: rest =>
    match decodeWord (wordOfBytes b0 b1) with
    | .ok i => .ok (i, rest)
    | .error e => .error e
  | _ => .error .tooShort

/-! ## The encoder -/

/-- Format NNN: `tnnn` (30_encoding.md R92). -/
def wordNNN (t : Nibble) (nnn : Addr12) : Word := t ++ nnn

/-- Format XKK: `txkk`. Format X is the same with `kk` literal. -/
def wordXKK (t : Nibble) (x : Reg) (kk : Byte) : Word := t ++ x ++ kk

/-- Format XYN: `txyn`. Format XY is the same with `n` literal. -/
def wordXYN (t : Nibble) (x y : Reg) (n : Nibble) : Word := t ++ x ++ y ++ n

/-- The word of an instruction. The ignored `y` of 8xy6 and 8xyE is written as 0 (30_encoding.md R103). -/
def encode : Instr → Word
  | .cls => 0x00E0#16
  | .ret => 0x00EE#16
  | .jp nnn => wordNNN 0x1#4 nnn
  | .call nnn => wordNNN 0x2#4 nnn
  | .seImm x kk => wordXKK 0x3#4 x kk
  | .sneImm x kk => wordXKK 0x4#4 x kk
  | .seReg x y => wordXYN 0x5#4 x y 0x0#4
  | .ldImm x kk => wordXKK 0x6#4 x kk
  | .addImm x kk => wordXKK 0x7#4 x kk
  | .ldReg x y => wordXYN 0x8#4 x y 0x0#4
  | .orReg x y => wordXYN 0x8#4 x y 0x1#4
  | .andReg x y => wordXYN 0x8#4 x y 0x2#4
  | .xorReg x y => wordXYN 0x8#4 x y 0x3#4
  | .addReg x y => wordXYN 0x8#4 x y 0x4#4
  | .subReg x y => wordXYN 0x8#4 x y 0x5#4
  | .shr x => wordXYN 0x8#4 x 0x0#4 0x6#4
  | .subnReg x y => wordXYN 0x8#4 x y 0x7#4
  | .shl x => wordXYN 0x8#4 x 0x0#4 0xE#4
  | .sneReg x y => wordXYN 0x9#4 x y 0x0#4
  | .ldI nnn => wordNNN 0xA#4 nnn
  | .jpV0 nnn => wordNNN 0xB#4 nnn
  | .rnd x kk => wordXKK 0xC#4 x kk
  | .drw x y n => wordXYN 0xD#4 x y n
  | .skp x => wordXKK 0xE#4 x 0x9E#8
  | .sknp x => wordXKK 0xE#4 x 0xA1#8
  | .ldVxDt x => wordXKK 0xF#4 x 0x07#8
  | .ldVxK x => wordXKK 0xF#4 x 0x0A#8
  | .ldDtVx x => wordXKK 0xF#4 x 0x15#8
  | .ldStVx x => wordXKK 0xF#4 x 0x18#8
  | .addI x => wordXKK 0xF#4 x 0x1E#8
  | .ldF x => wordXKK 0xF#4 x 0x29#8
  | .ldB x => wordXKK 0xF#4 x 0x33#8
  | .ldMemVx x => wordXKK 0xF#4 x 0x55#8
  | .ldVxMem x => wordXKK 0xF#4 x 0x65#8

/-- The two bytes of an instruction as they lie in memory, the high byte first (20_memory.md R62). -/
def encodeBytes (i : Instr) : List Byte := [highByte (encode i), lowByte (encode i)]

/-! ## The opcode table's numbering -/

/-- The word whose bits 0 to 15 are the table's (one 16-bit word a row), every bit above `nbits` being 0. -/
def tableWord (nbits w : Nat) : Word := BitVec.ofNat 16 (w % 2 ^ nbits)

/-- The instruction this decoder reads from the bytes of the table's word, laid out as memory holds them. -/
def decodeTableWord (nbits w : Nat) : Option Instr :=
  match decode [highByte (tableWord nbits w), lowByte (tableWord nbits w)] with
  | .ok (i, _) => some i
  | .error _ => none

end Sys2Proof
end

