-- ==== Sys2Proof/Config.lean ====
section
/-! DEFINITION. The fixed sizes of the machine (00_scope.md R5, source §3 and §6) and its free values: constants
without a body, of which nothing can be proved but that they have a value. The two open parameters FONT and
P_EXA1_SOURCE_QUIRK are in Machine/Params.lean. -/

namespace Sys2Proof.Config

/-- `MEM_SIZE`: addresses 0x000 to 0xFFF. -/
def memSize : Nat := 0x1000

/-- `FONT_BASE`, the base of the reset load and of Fx29 alike (10_state.md R36). -/
def fontBase : Nat := 0x050

/-- `FONT_SIZE`: 16 glyphs of 5 bytes. -/
def fontSize : Nat := 80

/-- `ENTRY`, the program entry point (70_reset_and_hazards.md R302). -/
def entry : Nat := 0x200

/-- The largest program image, 0x200 to 0xFFF (70_reset_and_hazards.md R306). -/
def maxProgram : Nat := 3584

/-- `rnd` (10_state.md R39, 42_load_alu.md R182): the random byte of the `n`-th Cxkk, a FREE VALUE under no law
(notes/assumptions/4.md). -/
opaque randomByte : Nat → Byte

/-- The 16 bits of the fault record's `opcode` after a fetch fault at address `a`, where `opcode_valid` is 0 and
60_exceptions.md R260 says only "absent": a FREE VALUE (notes/assumptions/2.md). -/
opaque absentOpcode : Word → Word

end Sys2Proof.Config
end

