-- ==== Sys2Proof/Machine/Params.lean ====
section
/-! DEFINITION. The two parameters of 00_scope.md R5 that are arguments of the model, and their defaults. They stand
under Machine/ because a test could show a default wrong. -/

namespace Sys2Proof.Machine

/-- The arguments of the model (00_scope.md R5, decisions D18 and D23). `FONT` is read by the reset load alone
(10_state.md R36); `P_EXA1_SOURCE_QUIRK` by ExA1 alone (45_keypad_timers.md R241). -/
structure Params where
  /-- `FONT[0]` to `FONT[79]` -/
  font : Vector Byte 80
  /-- `P_EXA1_SOURCE_QUIRK` -/
  exa1SourceQuirk : Bool
  deriving DecidableEq, Repr

/-- Glyphs 0 to 7 of the default `FONT` (10_state.md R36), five bytes a glyph, top row first. -/
def fontGlyphs0to7 : List Byte :=
  [0xF0#8, 0x90#8, 0x90#8, 0x90#8, 0xF0#8] ++
  [0x20#8, 0x60#8, 0x20#8, 0x20#8, 0x70#8] ++
  [0xF0#8, 0x10#8, 0xF0#8, 0x80#8, 0xF0#8] ++
  [0xF0#8, 0x10#8, 0xF0#8, 0x10#8, 0xF0#8] ++
  [0x90#8, 0x90#8, 0xF0#8, 0x10#8, 0x10#8] ++
  [0xF0#8, 0x80#8, 0xF0#8, 0x10#8, 0xF0#8] ++
  [0xF0#8, 0x80#8, 0xF0#8, 0x90#8, 0xF0#8] ++
  [0xF0#8, 0x10#8, 0x20#8, 0x40#8, 0x40#8]

/-- Glyphs 8 to F of the default `FONT`. -/
def fontGlyphs8toF : List Byte :=
  [0xF0#8, 0x90#8, 0xF0#8, 0x90#8, 0xF0#8] ++
  [0xF0#8, 0x90#8, 0xF0#8, 0x10#8, 0xF0#8] ++
  [0xF0#8, 0x90#8, 0xF0#8, 0x90#8, 0x90#8] ++
  [0xE0#8, 0x90#8, 0xE0#8, 0x90#8, 0xE0#8] ++
  [0xF0#8, 0x80#8, 0x80#8, 0x80#8, 0xF0#8] ++
  [0xE0#8, 0x90#8, 0x90#8, 0x90#8, 0xE0#8] ++
  [0xF0#8, 0x80#8, 0xF0#8, 0x80#8, 0xF0#8] ++
  [0xF0#8, 0x80#8, 0xF0#8, 0x80#8, 0x80#8]

/-- The default of `FONT[0..79]` (10_state.md R36). PRESUMED (the spec's D18, G1): the bytes are general knowledge; notes/assumptions/6.md. -/
def font : List Byte := fontGlyphs0to7 ++ fontGlyphs8toF

/-- The defaults of 00_scope.md R5. `P_EXA1_SOURCE_QUIRK` is `false` by decision D23; notes/assumptions/7.md. -/
def defaultParams : Params where
  font := ⟨font.toArray, rfl⟩
  exa1SourceQuirk := false

end Sys2Proof.Machine
end

