-- ==== Sys2Proof/Machine/State.lean ====
section
/-! DEFINITION. The state of the machine: everything 10_state.md R20 to R39 lists ("there is no other"), plain data,
and its reset value (R42). Two fields are the model's own: `draws`, and `exa1SourceQuirk`, which carries a parameter. -/

namespace Sys2Proof.Machine

/-- The fault kinds of 60_exceptions.md R260. -/
inductive FaultKind where
  /-- code 0: no fault recorded -/
  | noFault
  /-- code 1, raised by the decode phase: the word matches no row (R262) -/
  | decodeFailure
  /-- code 2, raised by 2nnn with `sp = 16` (R263) -/
  | stackOverflow
  /-- code 3, raised by 00EE with `sp = 0` (R264) -/
  | stackUnderflow
  /-- code 4, raised by the fetch, Dxyn, Fx33, Fx55, Fx65: an address above 0xFFF (R265) -/
  | outOfRangeAccess
  /-- code 5, raised by Ex9E and ExA1 with `V[x] > 15` (R266) -/
  | keyIndexOutOfRange
  deriving DecidableEq, Repr

/-- The fault record `(kind[2:0], opcode_valid, opcode[15:0], addr[15:0])` (60_exceptions.md R261). -/
structure FaultRecord where
  kind : FaultKind
  opcodeValid : Bool
  opcode : Word
  addr : Word
  deriving DecidableEq, Repr

/-- Why a step stops without a next state. -/
inductive Fault where
  /-- Raised by `step` alone, when a step is requested while `halted = 1`: nothing changes and the recorded fault is
  reported again (40_cycle.md R130, 60_exceptions.md R269). Safe: a halted unit makes no progress in the spec
  either. The entry into the halted state is no stop: it is a next state (notes/assumptions/1.md). -/
  | halted (record : FaultRecord)
  deriving DecidableEq, Repr

/-- Why an instruction has no meaning. -/
inductive Refusal where
  /-- Raised by an arm of `exec` whose instruction has no meaning yet: no arm does. Safe. -/
  | notModelled (mnemonic : String)
  deriving DecidableEq, Repr

/-- Memory: (address, byte) pairs, addresses strictly rising, below 0x1000, no byte equal to what the unlisted address
reads as. The operations and the predicate `Memory.wf` that says this are in Machine/Ops.lean. -/
abbrev Memory := List Host.Cell

/-- The framebuffer `video[py][px]`: 32 rows of 64 one-bit pixels (10_state.md R37). -/
abbrev Video := Vector (Vector Bool 64) 32

/-- The state of the machine. -/
structure State where
  /-- `V[0]` to `V[15]`, VF among them (R20, R22) -/
  v : Vector Byte 16
  /-- the index register `I` (R23) -/
  index : Word
  /-- `pc`: between steps the address of the last instruction executed, in the execute phase the address of the
  instruction being executed (R24) -/
  pc : Word
  /-- `stack[0]` to `stack[15]` (R28) -/
  stack : Vector Word 16
  /-- `sp`, the next free slot, 0 to 16 (R29; a bounded number as decision D3 allows) -/
  sp : Fin 17
  /-- `DT` (R30) -/
  dt : Byte
  /-- `ST` (R31) -/
  st : Byte
  /-- the opcode latch (R32) -/
  opcode : Word
  /-- `halted` (R33) -/
  halted : Bool
  /-- the fault record (R33, 60_exceptions.md R261) -/
  fault : FaultRecord
  /-- the 4096 bytes of memory (R34) -/
  mem : Memory
  /-- the framebuffer (R37) -/
  video : Video
  /-- the key latches, bit `k` is key `k`, written by the host only (R38, R40) -/
  key : Word
  /-- THE MODEL'S OWN: how many random bytes Cxkk has drawn; the next is `Config.randomByte draws` (R39,
  notes/assumptions/4.md) -/
  draws : Nat
  /-- THE MODEL'S OWN: the parameter `P_EXA1_SOURCE_QUIRK` (00_scope.md R5, decision D23), an argument of the step that
  rides in the state, fixed for a run: nothing writes it (notes/assumptions/18.md) -/
  exa1SourceQuirk : Bool
  deriving DecidableEq, Repr

/-- The machine after reset (10_state.md R42, 70_reset_and_hazards.md R300), the parameters at their defaults
(`State.resetWith`, Machine/HostMoves.lean, takes others). Memory lists nothing: unlisted addresses
read as the reset contents, the font at 0x050 to 0x09F and 0x00 elsewhere. `pc` is `ENTRY - 2`, so that the first
step fetches at 0x200 (R302). -/
def State.reset : State where
  v := Vector.replicate 16 0x00#8
  index := 0x0000#16
  pc := 0x01FE#16
  stack := Vector.replicate 16 0x0000#16
  sp := 0
  dt := 0x00#8
  st := 0x00#8
  opcode := 0x0000#16
  halted := false
  fault := { kind := .noFault, opcodeValid := false, opcode := 0x0000#16, addr := 0x0000#16 }
  mem := []
  video := Vector.replicate 32 (Vector.replicate 64 false)
  key := 0x0000#16
  draws := 0
  exa1SourceQuirk := defaultParams.exa1SourceQuirk

end Sys2Proof.Machine
end

