-- ==== Sys2Proof/Machine/Ops.lean ====
section
/-! DEFINITION. The named operations over memory, registers and the stack, and the entry into a fault: the one shared
operation every fault of 60_exceptions.md R260 goes through. There is no return from a fault (R269). -/

namespace Sys2Proof.Machine

/-! ## Memory (10_state.md R34 to R36, 20_memory.md) -/

/-- What an address reads as that nothing has written: the reset contents (10_state.md R42), `fnt` at 0x050 to 0x09F,
0x00 elsewhere. -/
def resetByteOf (fnt : List Byte) (a : Nat) : Byte :=
  if Config.fontBase ≤ a ∧ a < Config.fontBase + Config.fontSize then fnt.getD (a - Config.fontBase) 0x00#8
  else 0x00#8

/-- What an unlisted address reads as: the reset contents under the default `FONT`. Under another `FONT` the reset load
writes its bytes (`State.resetWith`). -/
def Memory.unlisted (a : Nat) : Byte := resetByteOf font a

/-- The byte `mem[a]`. -/
def Memory.read : Memory → Nat → Byte
  | [], a => Memory.unlisted a
  | (c, d) :: m, a => if a = c then d else Memory.read m a

/-- A cell, unless it holds what the address reads as unlisted. -/
def Memory.consCell (a : Nat) (b : Byte) (m : Memory) : Memory :=
  if b = Memory.unlisted a then m else (a, b) :: m

/-- `mem[a] <- b` in a list in canonical form, `a` inside memory. -/
def Memory.insert : Memory → Nat → Byte → Memory
  | [], a, b => Memory.consCell a b []
  | (c, d) :: m, a, b =>
    if a < c then Memory.consCell a b ((c, d) :: m)
    else if a = c then Memory.consCell a b m
    else (c, d) :: Memory.insert m a b

/-- `mem[a] <- b`. There is no byte above 0xFFF to write: every instruction checks its addresses first (20_memory.md
R66), so that case is never met (notes/assumptions/11.md). -/
def Memory.write (m : Memory) (a : Nat) (b : Byte) : Memory :=
  if a < Config.memSize then Memory.insert m a b else m

/-- Bytes at `a`, `a + 1`, ... in ascending order (20_memory.md R64). -/
def Memory.writeList (m : Memory) (a : Nat) : List Byte → Memory
  | [] => m
  | b :: bs => Memory.writeList (Memory.write m a b) (a + 1) bs

/-- The canonical form from address `lo` on: strictly rising, inside memory, nothing listed that would read the same
unlisted. -/
def Memory.wfFrom (lo : Nat) : Memory → Bool
  | [] => true
  | (a, b) :: m => decide (lo ≤ a) && decide (a < Config.memSize) && (b != Memory.unlisted a) && Memory.wfFrom (a + 1) m

/-- Memory is in canonical form, so that equal memories are equal lists. -/
def Memory.wf (m : Memory) : Bool := Memory.wfFrom 0 m

/-! ## One update per field -/

def State.setV (s : State) (v : Vector Byte 16) : State := { s with v := v }
def State.setIndex (s : State) (w : Word) : State := { s with index := w }
def State.setPc (s : State) (w : Word) : State := { s with pc := w }
def State.setStack (s : State) (k : Vector Word 16) : State := { s with stack := k }
def State.setSp (s : State) (k : Fin 17) : State := { s with sp := k }
def State.setDt (s : State) (b : Byte) : State := { s with dt := b }
def State.setSt (s : State) (b : Byte) : State := { s with st := b }
def State.setOpcode (s : State) (w : Word) : State := { s with opcode := w }
def State.setHalted (s : State) (h : Bool) : State := { s with halted := h }
def State.setFault (s : State) (r : FaultRecord) : State := { s with fault := r }
def State.setMem (s : State) (m : Memory) : State := { s with mem := m }
def State.setVideo (s : State) (d : Video) : State := { s with video := d }
def State.setKey (s : State) (k : Word) : State := { s with key := k }
def State.setDraws (s : State) (n : Nat) : State := { s with draws := n }
def State.setExa1SourceQuirk (s : State) (q : Bool) : State := { s with exa1SourceQuirk := q }

/-! ## Registers and memory of a state -/

/-- `V[x]` (00_scope.md R7). -/
def State.reg (s : State) (x : Reg) : Byte := s.v[x.toNat]'x.isLt

/-- `V[x] <- b`. No register is hard-wired (10_state.md R20). -/
def State.setReg (s : State) (x : Reg) (b : Byte) : State := s.setV (s.v.set x.toNat b x.isLt)

/-- `MemRead(a, 1)` inside memory (00_scope.md R8). -/
def State.readByte (s : State) (a : Nat) : Byte := s.mem.read a

/-- `MemWrite(a, 1, b)` inside memory. -/
def State.writeByte (s : State) (a : Nat) (b : Byte) : State := s.setMem (s.mem.write a b)

/-- `stack[j]` (10_state.md R28). -/
def State.stackAt (s : State) (j : Fin 16) : Word := s.stack[j.val]'j.isLt

/-- `video[py][px]` (10_state.md R37). -/
def State.pixel (s : State) (py : Fin 32) (px : Fin 64) : Bool := (s.video[py.val]'py.isLt)[px.val]'px.isLt

/-! ## The stack (10_state.md R28, R29) -/

/-- `stack[sp] <- w; sp <- sp + 1`, where a slot is free. -/
def State.push (s : State) (w : Word) : Option State :=
  if h : s.sp.val < 16 then
    some ((s.setStack (s.stack.set s.sp.val w h)).setSp ⟨s.sp.val + 1, Nat.succ_lt_succ h⟩)
  else none

/-- `sp <- sp - 1`, with `stack[sp]`, where an entry is in use. The entry is left as it is (decision D25). -/
def State.pop (s : State) : Option (Word × State) :=
  if h : s.sp.val = 0 then none
  else
    have lt : s.sp.val - 1 < 16 := by omega
    some (s.stack[s.sp.val - 1]'lt, s.setSp ⟨s.sp.val - 1, Nat.lt_succ_of_lt lt⟩)

/-! ## Faults (60_exceptions.md) -/

/-- The numeric code of a fault kind, `kind[2:0]` (R260). -/
def FaultKind.code : FaultKind → BitVec 3
  | .noFault => 0#3
  | .decodeFailure => 1#3
  | .stackOverflow => 2#3
  | .stackUnderflow => 3#3
  | .outOfRangeAccess => 4#3
  | .keyIndexOutOfRange => 5#3

/-- TAKING A FAULT (R268): the record is set, `halted <- 1`, and nothing else changes: no vector, no handler, no mode,
no saved state. Applied to the state before the step, it is the state after the faulting step
(notes/assumptions/1.md). -/
def State.enterFault (s : State) (r : FaultRecord) : State := (s.setHalted true).setFault r

/-- `raise kind(opcode, addr)` in the execute phase: a next state, halted, with the record of R260 whose opcode is the
fetched word. The meanings raise before they write anything (40_cycle.md R124), and the step then discards its own
writes of `pc` and `opcode` too (`finish`, Machine/Cycle.lean). -/
def raise (k : FaultKind) (addr : Word) (s : State) : Host.Outcome State Fault Refusal :=
  .next (s.enterFault { kind := k, opcodeValid := true, opcode := s.opcode, addr := addr })

/-- The range check of 20_memory.md R66 on `len` bytes from `base`, made before anything is written: the address to
report, the lowest one above 0xFFF, if there is one. -/
def outOfRange (base len : Nat) : Option Word :=
  if 0 < len ∧ base + len - 1 > 0xFFF then some (BitVec.ofNat 16 (max base 0x1000)) else none

/-- The effect `t` of an instruction that accesses `len` bytes from `base`, or its OutOfRangeAccess. -/
def inRange (base len : Nat) (s t : State) : Host.Outcome State Fault Refusal :=
  match outOfRange base len with
  | some a => raise .outOfRangeAccess a s
  | none => .next t

end Sys2Proof.Machine
end

