-- ==== Sys2Proof/Machine/Cycle.lean ====
section
/-! DEFINITION. The phases of a step around the execute phase (40_cycle.md R120): advance and fetch, decode, and after it
the tick or the discarding of a faulting step's writes. -/

namespace Sys2Proof.Machine

/-- The address a step fetches at: `pc + 2` (R121), modulo 2^16 (10_state.md R27). -/
def State.fetchAddr (s : State) : Word := s.pc + 2#16

/-- The two bytes at `a`, as the decoder reads them. -/
def State.fetchBytes (s : State) (a : Nat) : List Byte := [s.readByte a, s.readByte (a + 1)]

/-- The big-endian word at `a` (20_memory.md R62). -/
def State.wordAt (s : State) (a : Nat) : Word := wordOfBytes (s.readByte a) (s.readByte (a + 1))

/-- The record of a fetch beyond memory (R122): no opcode, address `a`, or 0x1000 where only the second byte is
outside. The opcode's bits are a free value (notes/assumptions/2.md). -/
def fetchFault (a : Word) : FaultRecord :=
  { kind := .outOfRangeAccess, opcodeValid := false, opcode := Config.absentOpcode a,
    addr := if a.toNat > 0xFFF then a else 0x1000#16 }

/-- The record of a word that is no instruction (R123). -/
def decodeFault (w a : Word) : FaultRecord :=
  { kind := .decodeFailure, opcodeValid := true, opcode := w, addr := a }

/-- The writes of phase 1: `pc <- a; opcode <- w`. -/
def State.latch (s : State) (a w : Word) : State := (s.setPc a).setOpcode w

/-- Phases 1 and 2: the instruction with the state its execute phase starts from, or the record of the fault, in the
order of 60_exceptions.md R267. -/
def fetchDecode (s : State) : Except FaultRecord (Instr × State) :=
  let a := s.fetchAddr
  if a.toNat + 1 > 0xFFF then .error (fetchFault a)
  else
    match decode (s.fetchBytes a.toNat) with
    | .ok (i, _) => .ok (i, s.latch a (s.wordAt a.toNat))
    | .error _ => .error (decodeFault (s.wordAt a.toNat) a)

/-- `if DT > 0 then DT <- DT - 1` (R125). -/
def tickDelay (b : Byte) : Byte := if b.toNat > 0 then b - 1#8 else b

/-- `if ST > 1 then ST <- ST - 1` (R125): the sound timer's floor is 1 (90_conflicts.md C11). -/
def tickSound (b : Byte) : Byte := if b.toNat > 1 then b - 1#8 else b

/-- Phase 4, on the values the handler left. -/
def State.tick (s : State) : State := (s.setDt (tickDelay s.dt)).setSt (tickSound s.st)

/-- The end of a step that began in `s` and whose execute phase answered `o`: a completed handler ticks; a raised fault
keeps the state before the step but for `halted` and the record, and does not tick (60_exceptions.md R268). -/
def finish (s : State) (o : Host.Outcome State Fault Refusal) : Host.Outcome State Fault Refusal :=
  match o with
  | .next t => .next (if t.halted then s.enterFault t.fault else t.tick)
  | .fault r => .fault r
  | .refused r => .refused r

/-- What a step answers while `halted = 1`: the recorded fault again, nothing changed (R130). -/
def reportFault (s : State) : Host.Outcome State Fault Refusal := .fault (.halted s.fault)

/-- Store a word at `a`, high byte first. -/
def State.storeWord (s : State) (a : Nat) (w : Word) : State :=
  s.setMem (s.mem.writeList a [highByte w, lowByte w])

end Sys2Proof.Machine
end

