-- ==== Sys2Proof/Machine/Operands.lean ====
section
/-! DEFINITION. The operand forms (30_encoding.md R94): immediates, the two register fields, the base `I` with a
constant offset (43_index_memory.md), the key latch a register names (45_keypad_timers.md), the random byte. -/

namespace Sys2Proof.Machine

/-- `zext_16(nnn)`: neither scaled nor sign-extended. -/
def addrOf (nnn : Addr12) : Word := nnn.setWidth 16

/-- `zext_16` of a byte. -/
def wordOf (b : Byte) : Word := b.setWidth 16

/-- The effective address `I + k`, an unbounded sum (20_memory.md R60). -/
def State.ea (s : State) (k : Nat) : Nat := s.index.toNat + k

/-- `V[0]`, the implicit operand of Bnnn. -/
def State.v0 (s : State) : Byte := s.reg 0#4

/-- `key[k]`: 1 is pressed (10_state.md R38). -/
def State.keyDown (s : State) (k : Nat) : Bool := s.key.getLsbD k

/-- The least pressed key (45_keypad_timers.md R242, decision D16), searched from `k` on among `n` latches. -/
def leastKeyFrom (keys : Word) (k : Nat) : Nat → Option Nat
  | 0 => none
  | n + 1 => if keys.getLsbD k then some k else leastKeyFrom keys (k + 1) n

/-- The least `k` in 0 to 15 with `key[k] = 1`. -/
def State.leastKey (s : State) : Option Nat := leastKeyFrom s.key 0 16

/-- The byte `rnd` gives the next Cxkk: a free value (10_state.md R39). -/
def State.random (s : State) : Byte := Config.randomByte s.draws

end Sys2Proof.Machine
end

