-- ==== Sys2Proof/Machine/Flags.lean ====
section
/-! DEFINITION. What the flag-writing instructions write into VF (10_state.md R22): 8xy4, 8xy5, 8xy6, 8xy7, 8xyE and
Dxyn, always the byte 0x00 or 0x01; and the two orders in which result and flag are written (00_scope.md R9). -/

namespace Sys2Proof.Machine

/-- The byte a flag is written as. -/
def flagByte (c : Bool) : Byte := if c then 0x01#8 else 0x00#8

/-- Carry of 8xy4: the true sum exceeds 255 (42_load_alu.md R170, R177). -/
def carryOut (p q : Byte) : Bool := decide (p.toNat + q.toNat > 255)

/-- No borrow in `p - q`: minuend at least subtrahend (42_load_alu.md R170, R178, R180; 90_conflicts.md C6). -/
def noBorrow (p q : Byte) : Bool := decide (q.toNat ≤ p.toNat)

/-- The bit 8xy6 shifts out, `vx[0]`. -/
def shiftedOutRight (p : Byte) : Bool := p.getLsbD 0

/-- The bit 8xyE shifts out, `vx[7]`. -/
def shiftedOutLeft (p : Byte) : Bool := p.getLsbD 7

/-- `V[15] <- flag`. -/
def State.setFlag (s : State) (c : Bool) : State := s.setReg vf (flagByte c)

/-- The order of 8xy4, 8xy5, 8xy7: with `x = 0xF` the flag remains. -/
def State.resultThenFlag (s : State) (x : Reg) (r : Byte) (c : Bool) : State := (s.setReg x r).setFlag c

/-- The order of 8xy6, 8xyE: with `x = 0xF` the result remains. -/
def State.flagThenResult (s : State) (x : Reg) (c : Bool) (r : Byte) : State := (s.setFlag c).setReg x r

end Sys2Proof.Machine
end

