-- ==== Sys2Proof/Machine/Display.lean ====
section
/-! DEFINITION. 44_display.md: 00E0, Dxyn. The draw is the double loop of R221 over sprite rows and columns, carrying the
framebuffer and the collision bit. -/

namespace Sys2Proof.Machine

/-- Every pixel 0. -/
def Video.blank : Video := Vector.replicate 32 (Vector.replicate 64 false)

/-- 00E0 `CLS` (R220): VF is not written. -/
def execCls (s : State) : Host.Outcome State Fault Refusal := .next (s.setVideo Video.blank)

/-- The framebuffer so far and whether a set pixel was hit. -/
abbrev Canvas := Video × Bool

/-- A sprite bit 1 at column `px`, row `py`, coordinates not wrapped: clipped outside the grid (decision D13), else the
pixel is inverted and a set pixel counts as a collision. -/
def Canvas.plot (c : Canvas) (px py : Nat) : Canvas :=
  if h : px < 64 ∧ py < 32 then
    have hx := h.1
    have hy := h.2
    let row := c.1[py]
    (c.1.set py (row.set px (!row[px])), c.2 || row[px])
  else c

/-- The first `k` columns of a sprite row with byte `b`, left to right: bit 7 is the leftmost pixel (decision D12). -/
def Canvas.drawCols (c : Canvas) (x0 py : Nat) (b : Byte) : Nat → Canvas
  | 0 => c
  | k + 1 =>
    let d := Canvas.drawCols c x0 py b k
    if b.getLsbD (7 - k) then d.plot (x0 + k) py else d

/-- The first `k` rows of the sprite at `base`, top to bottom. -/
def Canvas.drawRows (c : Canvas) (mem : Memory) (base x0 y0 : Nat) : Nat → Canvas
  | 0 => c
  | k + 1 => Canvas.drawCols (Canvas.drawRows c mem base x0 y0 k) x0 (y0 + k) (mem.read (base + k)) 8

/-- The canvas after Dxyn: only the origin wraps. -/
def State.drawn (s : State) (x y : Reg) (n : Nibble) : Canvas :=
  Canvas.drawRows (s.video, false) s.mem (s.ea 0) ((s.reg x).toNat % 64) ((s.reg y).toNat % 32) n.toNat

/-- Dxyn `DRW Vx, Vy, n` (R221): the sprite bytes are range-checked even where their rows are clipped (decision D14);
VF is written last, always. -/
def execDrw (x y : Reg) (n : Nibble) (s : State) : Host.Outcome State Fault Refusal :=
  inRange (s.ea 0) n.toNat s ((s.setVideo (s.drawn x y n).1).setFlag (s.drawn x y n).2)

end Sys2Proof.Machine
end

