-- ==== Sys2Proof/Machine/IndexMemory.lean ====
section
/-! DEFINITION. 43_index_memory.md: Annn, Fx1E, Fx29, Fx33, Fx55, Fx65. `I` is not checked when written, only when used
(10_state.md R23); Fx55 and Fx65 leave it alone (decision D22). -/

namespace Sys2Proof.Machine

/-- Annn `LD I, nnn` (R200). -/
def execLdI (nnn : Addr12) (s : State) : Host.Outcome State Fault Refusal := .next (s.setIndex (addrOf nnn))

/-- Fx1E `ADD I, Vx` (R201): modulo 2^16 (decision D9), no flag. -/
def execAddI (x : Reg) (s : State) : Host.Outcome State Fault Refusal :=
  .next (s.setIndex (s.index + wordOf (s.reg x)))

/-- Fx29 `LD F, Vx` (R202): `0x050 + 5 * vx`, at most 0x54B, all 8 bits of `vx` used. -/
def execLdF (x : Reg) (s : State) : Host.Outcome State Fault Refusal :=
  .next (s.setIndex (BitVec.ofNat 16 (Config.fontBase + 5 * (s.reg x).toNat)))

/-- The decimal digits of a byte, hundreds first (R203). -/
def decimalDigits (b : Byte) : List Byte :=
  [BitVec.ofNat 8 (b.toNat / 100), BitVec.ofNat 8 (b.toNat / 10 % 10), BitVec.ofNat 8 (b.toNat % 10)]

/-- Fx33 `LD B, Vx` (R203). -/
def execLdB (x : Reg) (s : State) : Host.Outcome State Fault Refusal :=
  inRange (s.ea 0) 3 s (s.setMem (s.mem.writeList (s.ea 0) (decimalDigits (s.reg x))))

/-- `V[0]` to `V[n - 1]`, in ascending order. -/
def State.firstRegs (s : State) (n : Nat) : List Byte := s.v.toList.take n

/-- Fx55 `LD [I], Vx` (R204). -/
def execLdMemVx (x : Reg) (s : State) : Host.Outcome State Fault Refusal :=
  inRange (s.ea 0) (x.toNat + 1) s (s.setMem (s.mem.writeList (s.ea 0) (s.firstRegs (x.toNat + 1))))

/-- `V[i] <- mem[base + i]` for `i` = 0 to `n - 1`, ascending; the bytes are those of the state `s`. -/
def State.loadRegs (s : State) (base : Nat) : Nat → State
  | 0 => s
  | n + 1 => (State.loadRegs s base n).setReg (BitVec.ofNat 4 n) (s.readByte (base + n))

/-- Fx65 `LD Vx, [I]` (R205). -/
def execLdVxMem (x : Reg) (s : State) : Host.Outcome State Fault Refusal :=
  inRange (s.ea 0) (x.toNat + 1) s (s.loadRegs (s.ea 0) (x.toNat + 1))

end Sys2Proof.Machine
end

