-- ==== Sys2Proof/Machine/KeypadTimers.lean ====
section
/-! DEFINITION. 45_keypad_timers.md: Ex9E, ExA1, Fx0A, Fx07, Fx15, Fx18. The latches are constant through the step
(40_cycle.md R129); the timer tick that follows is the step's (`State.tick`, Machine/Cycle.lean). -/

namespace Sys2Proof.Machine

/-- A skip on the latch `V[x]` names, taken if its level is `level`; an index above 15 raises KeyIndexOutOfRange with
the index as the address (R240, decision D15). -/
def keySkip (level : Bool) (x : Reg) (s : State) : Host.Outcome State Fault Refusal :=
  if (s.reg x).toNat > 15 then raise .keyIndexOutOfRange (wordOf (s.reg x)) s
  else .next (s.skipIf (s.keyDown (s.reg x).toNat == level))

/-- Ex9E `SKP Vx` (R240). -/
def execSkp (x : Reg) (s : State) : Host.Outcome State Fault Refusal := keySkip true x s

/-- ExA1 under either value of `P_EXA1_SOURCE_QUIRK` (R241): the table's reading skips when the key is not pressed, the
quirk when it is. -/
def sknpWith (quirk : Bool) (x : Reg) (s : State) : Host.Outcome State Fault Refusal := keySkip quirk x s

/-- ExA1 `SKNP Vx` (R241), under the value of the parameter the state carries. -/
def execSknp (x : Reg) (s : State) : Host.Outcome State Fault Refusal := sknpWith s.exa1SourceQuirk x s

/-- Fx0A `LD Vx, K` (R242): with no key pressed `pc` is rewound and the next step fetches this word again (R127). -/
def execLdVxK (x : Reg) (s : State) : Host.Outcome State Fault Refusal :=
  match s.leastKey with
  | some k => .next (s.setReg x (BitVec.ofNat 8 k))
  | none => .next (s.setPc (s.pc - 2#16))

/-- Fx07 `LD Vx, DT` (R243). -/
def execLdVxDt (x : Reg) (s : State) : Host.Outcome State Fault Refusal := .next (s.setReg x s.dt)

/-- Fx15 `LD DT, Vx` (R244). -/
def execLdDtVx (x : Reg) (s : State) : Host.Outcome State Fault Refusal := .next (s.setDt (s.reg x))

/-- Fx18 `LD ST, Vx` (R245). -/
def execLdStVx (x : Reg) (s : State) : Host.Outcome State Fault Refusal := .next (s.setSt (s.reg x))

end Sys2Proof.Machine
end

