-- ==== Sys2Proof/Machine/LoadAlu.lean ====
section
/-! DEFINITION. 42_load_alu.md: 6xkk, 7xkk, 8xy0 to 8xy7, 8xyE, Cxkk. None changes `pc` and none can raise a fault.
Bytes are added and subtracted modulo 256 (R170). -/

namespace Sys2Proof.Machine

/-- 6xkk `LD Vx, kk` (R171). -/
def execLdImm (x : Reg) (kk : Byte) (s : State) : Host.Outcome State Fault Refusal := .next (s.setReg x kk)

/-- 7xkk `ADD Vx, kk` (R172): no flag. -/
def execAddImm (x : Reg) (kk : Byte) (s : State) : Host.Outcome State Fault Refusal :=
  .next (s.setReg x (s.reg x + kk))

/-- 8xy0 `LD Vx, Vy` (R173). -/
def execLdReg (x y : Reg) (s : State) : Host.Outcome State Fault Refusal := .next (s.setReg x (s.reg y))

/-- 8xy1 `OR Vx, Vy` (R174): VF is not written. -/
def execOrReg (x y : Reg) (s : State) : Host.Outcome State Fault Refusal :=
  .next (s.setReg x (s.reg x ||| s.reg y))

/-- 8xy2 `AND Vx, Vy` (R175): VF is not written. -/
def execAndReg (x y : Reg) (s : State) : Host.Outcome State Fault Refusal :=
  .next (s.setReg x (s.reg x &&& s.reg y))

/-- 8xy3 `XOR Vx, Vy` (R176): VF is not written. -/
def execXorReg (x y : Reg) (s : State) : Host.Outcome State Fault Refusal :=
  .next (s.setReg x (s.reg x ^^^ s.reg y))

/-- 8xy4 `ADD Vx, Vy` (R177): the sum, then the carry. -/
def execAddReg (x y : Reg) (s : State) : Host.Outcome State Fault Refusal :=
  .next (s.resultThenFlag x (s.reg x + s.reg y) (carryOut (s.reg x) (s.reg y)))

/-- 8xy5 `SUB Vx, Vy` (R178): the difference, then not-borrow of the old operands (90_conflicts.md C5). -/
def execSubReg (x y : Reg) (s : State) : Host.Outcome State Fault Refusal :=
  .next (s.resultThenFlag x (s.reg x - s.reg y) (noBorrow (s.reg x) (s.reg y)))

/-- 8xy6 `SHR Vx` (R179): the bit shifted out, then the result. -/
def execShr (x : Reg) (s : State) : Host.Outcome State Fault Refusal :=
  .next (s.flagThenResult x (shiftedOutRight (s.reg x)) (s.reg x >>> 1))

/-- 8xy7 `SUBN Vx, Vy` (R180): as 8xy5 with the operands exchanged. -/
def execSubnReg (x y : Reg) (s : State) : Host.Outcome State Fault Refusal :=
  .next (s.resultThenFlag x (s.reg y - s.reg x) (noBorrow (s.reg y) (s.reg x)))

/-- 8xyE `SHL Vx` (R181): the bit shifted out, then the result. -/
def execShl (x : Reg) (s : State) : Host.Outcome State Fault Refusal :=
  .next (s.flagThenResult x (shiftedOutLeft (s.reg x)) (s.reg x <<< 1))

/-- What Cxkk does with the random byte `r`: `V[x] <- r AND kk`, and the byte is used up. -/
def State.loadRandom (s : State) (x : Reg) (kk r : Byte) : State := (s.setReg x (r &&& kk)).setDraws (s.draws + 1)

/-- Cxkk `RND Vx, kk` (R182): the random byte is a free value, a fresh one each time (notes/assumptions/4.md). -/
def execRnd (x : Reg) (kk : Byte) (s : State) : Host.Outcome State Fault Refusal :=
  .next (s.loadRandom x kk s.random)

end Sys2Proof.Machine
end

