-- ==== Sys2Proof/Machine/HostMoves.lean ====
section
/-! DEFINITION. What the outside world may do between steps (00_scope.md R4, 20_memory.md R73): load a program before the
first step, set the key latches, reset. The rest of the interface (R40) reads the state. -/

namespace Sys2Proof.Machine

/-- Reset under any values of the parameters (00_scope.md R5): the reset load writes `FONT` at `FONT_BASE` (10_state.md
R36), and everything else is as in `State.reset`, which is the same at the defaults. -/
def State.resetWith (p : Params) : State :=
  (State.reset.setMem (State.reset.mem.writeList Config.fontBase p.font.toList)).setExa1SourceQuirk p.exa1SourceQuirk

/-- The input source sets the sixteen latches to any value (10_state.md R38). -/
def State.setKeys (s : State) (k : Word) : State := s.setKey k

/-- The loader: byte `j` of the image goes to `mem[0x200 + j]`, nothing else is written; an image of more than 3584
bytes is the caller's error and no launch (70_reset_and_hazards.md R306, U11). -/
def State.loadProgram (s : State) (image : List Byte) : Option State :=
  if image.length ≤ Config.maxProgram then some (s.setMem (s.mem.writeList Config.entry image)) else none

end Sys2Proof.Machine
end

