-- ==== Sys2Proof/Machine/Step.lean ====
section
/-! DEFINITION. One step (40_cycle.md R120): exactly one instruction (R126). -/

namespace Sys2Proof.Machine

/-- `step(S)`, with the key latches in the state and the random byte a free value. -/
def step (s : State) : Host.Outcome State Fault Refusal :=
  if s.halted then reportFault s
  else
    match fetchDecode s with
    | .error r => .next (s.enterFault r)
    | .ok (i, t) => finish s (exec i t)

/-- `s` with the table's word stored where the next step fetches (`pc + 2`), high byte first; a fetch address beyond
memory has no byte to store to. Nothing else is changed. -/
def State.withFetchWord (s : State) (nbits w : Nat) : State := s.storeWord s.fetchAddr.toNat (tableWord nbits w)

end Sys2Proof.Machine
end

