-- ==== Sys2Proof/Safety.lean ====
section
/-! DEFINITION. The terms claims use: the pieces of state an observer can tell apart, what it means that only some of
them change, what a completed step is, and runs in which the host sets the keys between steps. -/

namespace Sys2Proof

open Sys2Proof.Machine

/-- One piece of state: every register, every byte of memory, every pixel by itself, and the model's own two. -/
inductive Piece where
  | reg (x : Reg)
  | index
  | pc
  | stack (j : Fin 16)
  | sp
  | dt
  | st
  | opcode
  | halted
  | fault
  | memory (a : Nat)
  | pixel (py : Fin 32) (px : Fin 64)
  | key
  | draws
  | exa1SourceQuirk
  deriving DecidableEq, Repr

/-- The piece holds the same value in `s` and `t`. -/
def Piece.Same (p : Piece) (s t : State) : Prop :=
  match p with
  | .reg x => t.reg x = s.reg x
  | .index => t.index = s.index
  | .pc => t.pc = s.pc
  | .stack j => t.stackAt j = s.stackAt j
  | .sp => t.sp = s.sp
  | .dt => t.dt = s.dt
  | .st => t.st = s.st
  | .opcode => t.opcode = s.opcode
  | .halted => t.halted = s.halted
  | .fault => t.fault = s.fault
  | .memory a => t.readByte a = s.readByte a
  | .pixel py px => t.pixel py px = s.pixel py px
  | .key => t.key = s.key
  | .draws => t.draws = s.draws
  | .exa1SourceQuirk => t.exa1SourceQuirk = s.exa1SourceQuirk

/-- From `s` to `t` nothing changes but pieces that satisfy `W`: every other register, byte of memory, pixel, stack
entry and special register is the same. -/
def OnlyChanges (W : Piece → Prop) (s t : State) : Prop := ∀ p : Piece, ¬ W p → p.Same s t

/-- The bytes `base`, ..., `base + len - 1`, as pieces. -/
def Piece.IsByteIn (p : Piece) (base len : Nat) : Prop := ∃ k, k < len ∧ p = .memory (base + k)

/-- A pixel. -/
def Piece.IsPixel (p : Piece) : Prop := ∃ py px, p = .pixel py px

/-- The step completed an instruction: the spec's `Next(S')`. A step that raises a fault also answers a next state, one
with `halted` set (notes/assumptions/1.md). -/
def Completes (s t : State) : Prop := step s = .next t ∧ t.halted = false

/-- The step raised a fault: the spec's `Fault(record)`, the record being `t.fault`. -/
def Faults (s t : State) : Prop := s.halted = false ∧ step s = .next t ∧ t.halted = true

/-- The next step executes `i`: the unit is not halted, the word at `pc + 2` is inside memory and it decodes to `i`
(40_cycle.md R120 to R123). -/
def Runs (s : State) (i : Instr) : Prop :=
  s.halted = false ∧ s.fetchAddr.toNat + 1 ≤ 0xFFF ∧ decodeWord (s.wordAt s.fetchAddr.toNat) = .ok i

/-- The state the execute phase of the next step starts from: `pc` and `opcode` latched (R121). -/
def Machine.State.latched (s : State) : State := s.latch s.fetchAddr (s.wordAt s.fetchAddr.toNat)

/-- The execute phase of `i` raises `kind(opcode, addr)` (60_exceptions.md R260): halted, the record set, and nothing
else changed. That the entry into a fault is a next state is notes/assumptions/1.md. -/
def Raises (i : Instr) (s : State) (kind : FaultKind) (addr : Nat) : Prop :=
  ∃ t, exec i s = .next t ∧ t.halted = true ∧
    t.fault = { kind := kind, opcodeValid := true, opcode := s.opcode, addr := BitVec.ofNat 16 addr } ∧
    OnlyChanges (· ∈ [.halted, .fault]) s t

/-- What each instruction may change when it completes (10_state.md R21, R23, R25, R28 to R31, R35, R37). -/
def mayChange (i : Instr) (s : State) (p : Piece) : Prop :=
  match i with
  | .cls => p.IsPixel
  | .ret => p = .sp ∨ p = .pc
  | .jp _ => p = .pc
  | .call _ => p = .sp ∨ p = .pc ∨ ∃ j : Fin 16, j.val = s.sp.val ∧ p = .stack j
  | .seImm _ _ => p = .pc
  | .sneImm _ _ => p = .pc
  | .seReg _ _ => p = .pc
  | .ldImm x _ => p = .reg x
  | .addImm x _ => p = .reg x
  | .ldReg x _ => p = .reg x
  | .orReg x _ => p = .reg x
  | .andReg x _ => p = .reg x
  | .xorReg x _ => p = .reg x
  | .addReg x _ => p = .reg x ∨ p = .reg vf
  | .subReg x _ => p = .reg x ∨ p = .reg vf
  | .shr x => p = .reg x ∨ p = .reg vf
  | .subnReg x _ => p = .reg x ∨ p = .reg vf
  | .shl x => p = .reg x ∨ p = .reg vf
  | .sneReg _ _ => p = .pc
  | .ldI _ => p = .index
  | .jpV0 _ => p = .pc
  | .rnd x _ => p = .reg x ∨ p = .draws
  | .drw _ _ _ => p = .reg vf ∨ p.IsPixel
  | .skp _ => p = .pc
  | .sknp _ => p = .pc
  | .ldVxDt x => p = .reg x
  | .ldVxK x => p = .reg x ∨ p = .pc
  | .ldDtVx _ => p = .dt
  | .ldStVx _ => p = .st
  | .addI _ => p = .index
  | .ldF _ => p = .index
  | .ldB _ => p.IsByteIn s.index.toNat 3
  | .ldMemVx x => p.IsByteIn s.index.toNat (x.toNat + 1)
  | .ldVxMem x => ∃ z : Reg, z.toNat ≤ x.toNat ∧ p = .reg z

/-- A taken skip leaves `a + 2`, one not taken leaves `a` (10_state.md R25). -/
def skipTo (taken : Bool) (a : Word) : Word := if taken then a + 2#16 else a

/-- How each instruction fetched at `s.pc` leaves `pc` when it completes: the list of 10_state.md R25, the condition of
ExA1 being that of the parameter `P_EXA1_SOURCE_QUIRK` (45_keypad_timers.md R241; notes/assumptions/18.md). The sums wrap
at 2^16 (notes/assumptions/14.md). -/
def pcAfter (i : Instr) (s : State) : Word :=
  match i with
  | .seImm x kk => skipTo (s.reg x == kk) s.pc
  | .sneImm x kk => skipTo (s.reg x != kk) s.pc
  | .seReg x y => skipTo (s.reg x == s.reg y) s.pc
  | .sneReg x y => skipTo (s.reg x != s.reg y) s.pc
  | .skp x => skipTo (s.key.getLsbD (s.reg x).toNat) s.pc
  | .sknp x => skipTo (s.key.getLsbD (s.reg x).toNat == s.exa1SourceQuirk) s.pc
  | .jp nnn => nnn.setWidth 16
  | .call nnn => nnn.setWidth 16
  | .jpV0 nnn => (s.reg 0#4).setWidth 16 + nnn.setWidth 16
  | .ret => (s.stack.toList.getD (s.sp.val - 1) 0#16)
  | .ldVxK _ => if s.key = 0#16 then s.pc - 2#16 else s.pc
  | _ => s.pc

/-- Bit 1 of a sprite of `n` bytes at `base`, drawn with origin (`x0`, `y0`), stands at row `py`, column `px`: the closed
form of 44_display.md R221's loops, in which a target pixel is touched at most once. -/
def spriteBit (mem : Memory) (base x0 y0 n py px : Nat) : Bool :=
  decide (y0 ≤ py ∧ py < y0 + n) && decide (x0 ≤ px ∧ px < x0 + 8) &&
    (mem.read (base + (py - y0))).getLsbD (7 - (px - x0))

/-- The sprite bit Dxyn with operands `x`, `y`, `n` draws at row `py`, column `px` in the state `s`. -/
def Machine.State.spriteAt (s : State) (x y : Reg) (n : Nibble) (py : Fin 32) (px : Fin 64) : Bool :=
  spriteBit s.mem s.index.toNat ((s.reg x).toNat % 64) ((s.reg y).toNat % 32) n.toNat py.val px.val

/-- The byte at `c` after Fx55 has stored `V[0]` to `V[x]` at `I` (43_index_memory.md R204), from the state before. -/
def Machine.State.byteAfterRegs (s : State) (x : Reg) (c : Nat) : Byte :=
  if s.index.toNat ≤ c ∧ c ≤ s.index.toNat + x.toNat then s.reg (BitVec.ofNat 4 (c - s.index.toNat)) else s.readByte c

/-- The byte at `c` after Fx33 has stored the digits of `V[x]` at `I` (43_index_memory.md R203), from the state before. -/
def Machine.State.byteAfterDigits (s : State) (x : Reg) (c : Nat) : Byte :=
  if c = s.index.toNat then BitVec.ofNat 8 ((s.reg x).toNat / 100)
  else if c = s.index.toNat + 1 then BitVec.ofNat 8 ((s.reg x).toNat / 10 % 10)
  else if c = s.index.toNat + 2 then BitVec.ofNat 8 ((s.reg x).toNat % 10)
  else s.readByte c

/-- The step from `s` completes in a state whose next fetch, two bytes further, finds the bytes `b`: the word there is
big-endian, and if it is an instruction the next step runs it. -/
def CompletesAndFetches (s : State) (b : Nat → Byte) : Prop :=
  ∃ t, Completes s t ∧ t.fetchAddr = s.fetchAddr + 2#16 ∧
    (t.wordAt t.fetchAddr.toNat).toNat = 256 * (b t.fetchAddr.toNat).toNat + (b (t.fetchAddr.toNat + 1)).toNat ∧
    ∀ i, t.fetchAddr.toNat + 1 ≤ 0xFFF →
      decodeWord (wordOfBytes (b t.fetchAddr.toNat) (b (t.fetchAddr.toNat + 1))) = .ok i → Runs t i

/-- The machine under any values of the parameters (00_scope.md R5); `core` is it at the defaults. -/
def coreWith (p : Params) : Host.Core :=
  { State := State, Fault := Fault, Refusal := Refusal, step := step, reset := State.resetWith p }

/-- A run in which the host sets the latches to the next value of the list before each step (00_scope.md R4). -/
def runKeys : List Word → State → Host.Outcome State Fault Refusal
  | [], s => .next s
  | k :: ks, s =>
    match step (s.setKeys k) with
    | .next t => runKeys ks t
    | .fault r => .fault r
    | .refused r => .refused r

end Sys2Proof
end

