-- ==== Sys2Proof/Certificates/Slice0/Obligations.lean ====
section
/-! DEFINITION. The statements for the provers, from the numbered rules of spec/. Statements about `exec` are about the
execute phase: there `s.pc` is the address of the instruction and `s.opcode` its word (40_cycle.md R121). The terms
`OnlyChanges`, `Raises`, `Runs`, `Completes`, `Faults`, `mayChange`, `pcAfter` are in Sys2Proof/Safety.lean. -/

open Sys2Proof Sys2Proof.Machine

/-! ## Encoding -/

/-- 30_encoding.md R90 to R92, R96: the bytes of every instruction, followed by any bytes, decode to it and leave the
rest. The encoder writes the ignored `y` of 8xy6 and 8xyE as 0 (notes/assumptions/15.md). -/
def Obligations.DecodeReturnsTheEncodedInstruction : Prop :=
  ∀ (i : Instr) (rest : List Byte), decode (encodeBytes i ++ rest) = .ok (i, rest)

/-- 30_encoding.md R96: the encoding of a decoded word is the word, but for the ignored `y` field of 8xy6 and 8xyE, which
the model's encoder writes as 0 (notes/assumptions/15.md). -/
def Obligations.EncodeReturnsTheDecodedWord : Prop :=
  ∀ (w : Word) (i : Instr), decodeWord w = .ok i →
    ((∀ x, i ≠ .shr x ∧ i ≠ .shl x) → encode i = w) ∧
    ((∃ x, i = .shr x ∨ i = .shl x) → encode i = w &&& 0xFF0F#16)

/-- 30_encoding.md R95 (its decision D10) with the masks and matches of R96: a word selects at most one of the 34 rows, and
it decodes exactly when it selects one, to an instruction of that row. -/
def Obligations.DecoderSelectsTheOneMatchingRow : Prop :=
  rows.length = 34 ∧
  ∀ w : Word,
    (∀ r ∈ rows, ∀ r' ∈ rows, r.selects w = true → r'.selects w = true → r = r') ∧
    (∀ r ∈ rows, r.selects w = true → ∃ i, decodeWord w = .ok i ∧ i.row = r) ∧
    (∀ i, decodeWord w = .ok i → i.row ∈ rows ∧ i.row.selects w = true)

/-- 30_encoding.md R100: the words that decode to nothing are exactly those of the six classes. -/
def Obligations.IllegalWordsAreTheSixClasses : Prop :=
  ∀ w : Word, (∃ e, decodeWord w = .error e) ↔
    (fieldT w = 0#4 ∧ fieldNNN w ≠ 0x0E0#12 ∧ fieldNNN w ≠ 0x0EE#12) ∨
    (fieldT w = 5#4 ∧ fieldN w ≠ 0#4) ∨
    (fieldT w = 8#4 ∧ fieldN w ∈ [0x8#4, 0x9#4, 0xA#4, 0xB#4, 0xC#4, 0xD#4, 0xF#4]) ∨
    (fieldT w = 9#4 ∧ fieldN w ≠ 0#4) ∨
    (fieldT w = 0xE#4 ∧ fieldKK w ∉ [0x9E#8, 0xA1#8]) ∨
    (fieldT w = 0xF#4 ∧
      fieldKK w ∉ [0x07#8, 0x0A#8, 0x15#8, 0x18#8, 0x1E#8, 0x29#8, 0x33#8, 0x55#8, 0x65#8])

/-- 30_encoding.md R97: 8xy6 and 8xyE are the same instruction for all sixteen `y`, and `V[y]` is neither read nor
written: another value in it stays there and changes nothing else. (Where `y` names `Vx` or VF, that register is read or
written under its other name.) -/
def Obligations.ShiftsIgnoreTheYField : Prop :=
  ∀ x y : Reg,
    decodeWord (wordXYN 0x8#4 x y 0x6#4) = .ok (.shr x) ∧ decodeWord (wordXYN 0x8#4 x y 0xE#4) = .ok (.shl x) ∧
    ∀ (s : State) (b : Byte), y ≠ x → y ≠ vf →
      (∃ t, exec (.shr x) s = .next t ∧ t.reg y = s.reg y ∧ exec (.shr x) (s.setReg y b) = .next (t.setReg y b)) ∧
      (∃ t, exec (.shl x) s = .next t ∧ t.reg y = s.reg y ∧ exec (.shl x) (s.setReg y b) = .next (t.setReg y b))

/-- A word of each format of 30_encoding.md R92, written out from the patterns, decodes to its instruction; a sanity
statement. -/
def Obligations.SampleWordsDecode : Prop :=
  decodeWord 0x00EE#16 = .ok .ret ∧ decodeWord 0x1ABC#16 = .ok (.jp 0xABC#12) ∧
  decodeWord 0x3A42#16 = .ok (.seImm 0xA#4 0x42#8) ∧ decodeWord 0x8125#16 = .ok (.subReg 0x1#4 0x2#4) ∧
  decodeWord 0xA050#16 = .ok (.ldI 0x050#12) ∧ decodeWord 0xD12F#16 = .ok (.drw 0x1#4 0x2#4 0xF#4) ∧
  decodeWord 0xE49E#16 = .ok (.skp 0x4#4) ∧ decodeWord 0xF365#16 = .ok (.ldVxMem 0x3#4) ∧
  decodeWord 0x0000#16 = .error .illegal0nnn ∧ decodeWord 0x8018#16 = .error .illegal8xyn

/-! ## 44_display.md -/

/-- R220: 00E0 clears every pixel and changes nothing else, VF included. -/
def Obligations.ClearScreenBlanksEveryPixel : Prop :=
  decodeWord 0x00E0#16 = .ok .cls ∧
  ∀ s : State, ∃ t, exec .cls s = .next t ∧ (∀ py px, t.pixel py px = false) ∧ OnlyChanges (·.IsPixel) s t

/-- R221: where `n = 0` or all `n` sprite bytes lie in memory, Dxyn completes: every pixel is XORed with the sprite bit
that falls on it (bit 7 leftmost by decision D12, the origin wrapped, off-grid pixels clipped by D13, no wrap to another
edge), VF is 1 exactly when a 1 bit fell on a set pixel, and nothing else changes. The decisions are
notes/assumptions/8.md. -/
def Obligations.DrawXorsTheSpriteAndReportsCollision : Prop :=
  ∀ (x y : Reg) (n : Nibble),
    decodeWord (wordXYN 0xD#4 x y n) = .ok (.drw x y n) ∧
    ∀ s : State, (n = 0#4 ∨ s.index.toNat + n.toNat ≤ 0x1000) →
      ∃ t, exec (.drw x y n) s = .next t ∧
        (∀ py px, t.pixel py px = (s.pixel py px ^^ s.spriteAt x y n py px)) ∧
        ((∃ py px, s.spriteAt x y n py px = true ∧ s.pixel py px = true) → t.reg vf = 0x01#8) ∧
        ((∀ py px, s.spriteAt x y n py px = true → s.pixel py px = false) → t.reg vf = 0x00#8) ∧
        OnlyChanges (fun p => p.IsPixel ∨ p = .reg vf) s t

/-- R221 (decision D14), 20_memory.md R66: with `n > 0` and a sprite byte above 0xFFF Dxyn raises OutOfRangeAccess, and
nothing is drawn, whatever rows are clipped. The entry into the fault is notes/assumptions/1.md. -/
def Obligations.DrawBeyondMemoryFaults : Prop :=
  ∀ (x y : Reg) (n : Nibble) (s : State), n ≠ 0#4 → s.index.toNat + n.toNat > 0x1000 →
    Raises (.drw x y n) s .outOfRangeAccess (max s.index.toNat 0x1000)

/-- R221 (a corner case it derives) and the source's property S8: the same sprite drawn twice at the same origin restores the framebuffer; the
second draw reports a collision exactly when a visible 1 bit fell on a pixel that was 0 before the first. -/
def Obligations.DrawingTwiceRestoresTheFramebuffer : Prop :=
  ∀ (x y : Reg) (n : Nibble) (s : State), x ≠ vf → y ≠ vf → (n = 0#4 ∨ s.index.toNat + n.toNat ≤ 0x1000) →
    ∃ t u, exec (.drw x y n) s = .next t ∧ exec (.drw x y n) t = .next u ∧
      (∀ py px, u.pixel py px = s.pixel py px) ∧
      (u.reg vf = 0x01#8 ↔ ∃ py px, s.spriteAt x y n py px = true ∧ s.pixel py px = false) ∧
      OnlyChanges (· = .reg vf) s u

/-! ## 41_control_flow.md -/

/-- R151, R157: 1nnn and Bnnn write `pc` unadjusted and nothing else; the next fetch is two bytes further, beyond memory
exactly when it reaches 0xFFF. -/
def Obligations.JumpsWriteTheTargetUnadjusted : Prop :=
  ∀ nnn : Addr12,
    decodeWord (wordNNN 0x1#4 nnn) = .ok (.jp nnn) ∧ decodeWord (wordNNN 0xB#4 nnn) = .ok (.jpV0 nnn) ∧
    ∀ s : State,
      (∃ t, exec (.jp nnn) s = .next t ∧ t.pc.toNat = nnn.toNat ∧ t.fetchAddr.toNat = nnn.toNat + 2 ∧
        (t.fetchAddr.toNat + 1 > 0xFFF ↔ nnn.toNat ≥ 0xFFD) ∧ OnlyChanges (· = .pc) s t) ∧
      (∃ t, exec (.jpV0 nnn) s = .next t ∧ t.pc.toNat = (s.reg 0#4).toNat + nnn.toNat ∧
        t.fetchAddr.toNat = (s.reg 0#4).toNat + nnn.toNat + 2 ∧
        (t.fetchAddr.toNat + 1 > 0xFFF ↔ (s.reg 0#4).toNat + nnn.toNat + 3 > 0xFFF) ∧ OnlyChanges (· = .pc) s t)

/-- R152: 2nnn with a free slot pushes its own address and jumps; with sixteen entries in use it raises StackOverflow
before it writes anything (the entry into the fault is notes/assumptions/1.md). -/
def Obligations.CallPushesItsOwnAddress : Prop :=
  ∀ nnn : Addr12,
    decodeWord (wordNNN 0x2#4 nnn) = .ok (.call nnn) ∧
    ∀ s : State,
      (s.sp.val < 16 → ∃ t, ∃ j : Fin 16, exec (.call nnn) s = .next t ∧ j.val = s.sp.val ∧ t.stackAt j = s.pc ∧
        t.sp.val = s.sp.val + 1 ∧ t.pc.toNat = nnn.toNat ∧ t.fetchAddr.toNat = nnn.toNat + 2 ∧
        OnlyChanges (· ∈ [.stack j, .sp, .pc]) s t) ∧
      (s.sp.val = 16 → Raises (.call nnn) s .stackOverflow s.pc.toNat)

/-- R150: 00EE with an entry in use pops `stack[sp - 1]` into `pc` and leaves the entry as it is; with none it raises
StackUnderflow (the entry into the fault is notes/assumptions/1.md). -/
def Obligations.ReturnPopsTheLastEntry : Prop :=
  decodeWord 0x00EE#16 = .ok .ret ∧
  ∀ s : State,
    (s.sp.val ≠ 0 → ∃ t, ∃ j : Fin 16, exec .ret s = .next t ∧ j.val + 1 = s.sp.val ∧ t.sp.val + 1 = s.sp.val ∧
      t.pc = s.stackAt j ∧ OnlyChanges (· ∈ [.sp, .pc]) s t) ∧
    (s.sp.val = 0 → Raises .ret s .stackUnderflow s.pc.toNat)

/-- R153, R154: the skips on an immediate complete, add 2 to `pc` when their condition holds and change nothing else; over
the whole step `pc` moves by 4 or by 2. -/
def Obligations.ImmediateSkipsAddTwo : Prop :=
  ∀ (x : Reg) (kk : Byte),
    decodeWord (wordXKK 0x3#4 x kk) = .ok (.seImm x kk) ∧ decodeWord (wordXKK 0x4#4 x kk) = .ok (.sneImm x kk) ∧
    ∀ s : State,
      (∃ t, exec (.seImm x kk) s = .next t ∧ t.pc = (if s.reg x = kk then s.pc + 2#16 else s.pc) ∧
        OnlyChanges (· = .pc) s t) ∧
      (∃ t, exec (.sneImm x kk) s = .next t ∧ t.pc = (if s.reg x = kk then s.pc else s.pc + 2#16) ∧
        OnlyChanges (· = .pc) s t) ∧
      (Runs s (.seImm x kk) → ∃ t, Completes s t ∧ t.pc = s.pc + (if s.reg x = kk then 4#16 else 2#16)) ∧
      (Runs s (.sneImm x kk) → ∃ t, Completes s t ∧ t.pc = s.pc + (if s.reg x = kk then 2#16 else 4#16))

/-- R155, R156: the skips on two registers; 5xyn and 9xyn with `n` not 0 are no instructions. -/
def Obligations.RegisterSkipsAddTwo : Prop :=
  ∀ x y : Reg,
    decodeWord (wordXYN 0x5#4 x y 0#4) = .ok (.seReg x y) ∧ decodeWord (wordXYN 0x9#4 x y 0#4) = .ok (.sneReg x y) ∧
    (∀ n : Nibble, n ≠ 0#4 → (∃ e, decodeWord (wordXYN 0x5#4 x y n) = .error e) ∧
      (∃ e, decodeWord (wordXYN 0x9#4 x y n) = .error e)) ∧
    ∀ s : State,
      (∃ t, exec (.seReg x y) s = .next t ∧ t.pc = (if s.reg x = s.reg y then s.pc + 2#16 else s.pc) ∧
        OnlyChanges (· = .pc) s t) ∧
      (∃ t, exec (.sneReg x y) s = .next t ∧ t.pc = (if s.reg x = s.reg y then s.pc else s.pc + 2#16) ∧
        OnlyChanges (· = .pc) s t) ∧
      (Runs s (.seReg x y) → ∃ t, Completes s t ∧ t.pc = s.pc + (if s.reg x = s.reg y then 4#16 else 2#16)) ∧
      (Runs s (.sneReg x y) → ∃ t, Completes s t ∧ t.pc = s.pc + (if s.reg x = s.reg y then 2#16 else 4#16))

/-! ## 42_load_alu.md -/

/-- R171, R173: 6xkk and 8xy0 write `V[x]` alone, VF included among the destinations. -/
def Obligations.LoadsWriteTheirRegister : Prop :=
  ∀ (x y : Reg) (kk : Byte),
    decodeWord (wordXKK 0x6#4 x kk) = .ok (.ldImm x kk) ∧ decodeWord (wordXYN 0x8#4 x y 0x0#4) = .ok (.ldReg x y) ∧
    ∀ s : State,
      (∃ t, exec (.ldImm x kk) s = .next t ∧ t.reg x = kk ∧ OnlyChanges (· = .reg x) s t ∧
        ∃ u, exec (.addImm x 0x00#8) t = .next u ∧ u.reg x = kk) ∧
      (∃ t, exec (.ldReg x y) s = .next t ∧ t.reg x = s.reg y ∧ OnlyChanges (· = .reg x) s t)

/-- R172: 7xkk adds modulo 256 and writes no flag. -/
def Obligations.AddImmediateWrapsWithoutFlag : Prop :=
  ∀ (x : Reg) (kk : Byte),
    decodeWord (wordXKK 0x7#4 x kk) = .ok (.addImm x kk) ∧
    ∀ s : State, ∃ t, exec (.addImm x kk) s = .next t ∧
      (t.reg x).toNat = ((s.reg x).toNat + kk.toNat) % 256 ∧ OnlyChanges (· = .reg x) s t

/-- R174 to R176: the logical operations, bit by bit, write `V[x]` alone: VF is not written. -/
def Obligations.LogicalOperationsAreBitwise : Prop :=
  ∀ x y : Reg,
    decodeWord (wordXYN 0x8#4 x y 0x1#4) = .ok (.orReg x y) ∧ decodeWord (wordXYN 0x8#4 x y 0x2#4) = .ok (.andReg x y) ∧
    decodeWord (wordXYN 0x8#4 x y 0x3#4) = .ok (.xorReg x y) ∧
    ∀ s : State,
      (∃ t, exec (.orReg x y) s = .next t ∧ OnlyChanges (· = .reg x) s t ∧
        ∀ b < 8, (t.reg x).getLsbD b = ((s.reg x).getLsbD b || (s.reg y).getLsbD b)) ∧
      (∃ t, exec (.andReg x y) s = .next t ∧ OnlyChanges (· = .reg x) s t ∧
        ∀ b < 8, (t.reg x).getLsbD b = ((s.reg x).getLsbD b && (s.reg y).getLsbD b)) ∧
      (∃ t, exec (.xorReg x y) s = .next t ∧ OnlyChanges (· = .reg x) s t ∧
        ∀ b < 8, (t.reg x).getLsbD b = ((s.reg x).getLsbD b ^^ (s.reg y).getLsbD b))

/-- R177: 8xy4 keeps the low 8 bits of the sum and sets VF to the carry; with `x = 0xF` the carry remains. -/
def Obligations.AddSetsTheCarry : Prop :=
  ∀ x y : Reg,
    decodeWord (wordXYN 0x8#4 x y 0x4#4) = .ok (.addReg x y) ∧
    ∀ s : State, ∃ t, exec (.addReg x y) s = .next t ∧
      (x ≠ vf → (t.reg x).toNat = ((s.reg x).toNat + (s.reg y).toNat) % 256) ∧
      ((s.reg x).toNat + (s.reg y).toNat > 255 → t.reg vf = 0x01#8) ∧
      ((s.reg x).toNat + (s.reg y).toNat ≤ 255 → t.reg vf = 0x00#8) ∧
      OnlyChanges (· ∈ [.reg x, .reg vf]) s t

/-- R178, R180: 8xy5 and 8xy7 subtract modulo 256 and set VF to 1 exactly when the minuend is at least the subtrahend;
with `x = 0xF` the flag remains. -/
def Obligations.SubtractionsSetNotBorrow : Prop :=
  ∀ x y : Reg,
    decodeWord (wordXYN 0x8#4 x y 0x5#4) = .ok (.subReg x y) ∧ decodeWord (wordXYN 0x8#4 x y 0x7#4) = .ok (.subnReg x y) ∧
    ∀ s : State,
      (∃ t, exec (.subReg x y) s = .next t ∧
        (x ≠ vf → (t.reg x).toNat = (256 + (s.reg x).toNat - (s.reg y).toNat) % 256) ∧
        t.reg vf = (if (s.reg x).toNat ≥ (s.reg y).toNat then 0x01#8 else 0x00#8) ∧
        OnlyChanges (· ∈ [.reg x, .reg vf]) s t) ∧
      (∃ t, exec (.subnReg x y) s = .next t ∧
        (x ≠ vf → (t.reg x).toNat = (256 + (s.reg y).toNat - (s.reg x).toNat) % 256) ∧
        t.reg vf = (if (s.reg y).toNat ≥ (s.reg x).toNat then 0x01#8 else 0x00#8) ∧
        OnlyChanges (· ∈ [.reg x, .reg vf]) s t)

/-- R179, R181: 8xy6 halves and 8xyE doubles modulo 256, VF receives the bit shifted out; with `x = 0xF` the shifted value
remains by decision D11 (notes/assumptions/8.md). -/
def Obligations.ShiftsCaptureTheBitShiftedOut : Prop :=
  ∀ x y : Reg,
    decodeWord (wordXYN 0x8#4 x y 0x6#4) = .ok (.shr x) ∧ decodeWord (wordXYN 0x8#4 x y 0xE#4) = .ok (.shl x) ∧
    ∀ s : State,
      (∃ t, exec (.shr x) s = .next t ∧ (t.reg x).toNat = (s.reg x).toNat / 2 ∧
        (x ≠ vf → (t.reg vf).toNat = (s.reg x).toNat % 2) ∧ OnlyChanges (· ∈ [.reg x, .reg vf]) s t) ∧
      (∃ t, exec (.shl x) s = .next t ∧ (t.reg x).toNat = (s.reg x).toNat * 2 % 256 ∧
        (x ≠ vf → (t.reg vf).toNat = (s.reg x).toNat / 128) ∧ OnlyChanges (· ∈ [.reg x, .reg vf]) s t)

/-- R182, 10_state.md R39: Cxkk loads the next free random byte masked with `kk`; whatever the byte is, no bit that `kk`
has clear is set. The counter `draws` is the model's own (notes/assumptions/4.md). -/
def Obligations.RandomIsMasked : Prop :=
  ∀ (x : Reg) (kk : Byte),
    decodeWord (wordXKK 0xC#4 x kk) = .ok (.rnd x kk) ∧
    ∀ s : State, ∃ t, exec (.rnd x kk) s = .next t ∧ t.reg x = Config.randomByte s.draws &&& kk ∧
      (∀ b, kk.getLsbD b = false → (t.reg x).getLsbD b = false) ∧ t.draws = s.draws + 1 ∧
      OnlyChanges (· ∈ [.reg x, .draws]) s t

/-! ## 43_index_memory.md -/

/-- R200 to R202: Annn, Fx1E and Fx29 write `I` alone, unchecked: the sum of Fx1E wraps at 2^16 (decision D9) and sets no
flag, Fx29 uses all 8 bits of `vx` (decision D22). The decisions are notes/assumptions/8.md. -/
def Obligations.IndexInstructionsWriteI : Prop :=
  ∀ (nnn : Addr12) (x : Reg),
    decodeWord (wordNNN 0xA#4 nnn) = .ok (.ldI nnn) ∧ decodeWord (wordXKK 0xF#4 x 0x1E#8) = .ok (.addI x) ∧
    decodeWord (wordXKK 0xF#4 x 0x29#8) = .ok (.ldF x) ∧
    ∀ s : State,
      (∃ t, exec (.ldI nnn) s = .next t ∧ t.index.toNat = nnn.toNat ∧ OnlyChanges (· = .index) s t) ∧
      (∃ t, exec (.addI x) s = .next t ∧ t.index.toNat = (s.index.toNat + (s.reg x).toNat) % 65536 ∧
        OnlyChanges (· = .index) s t) ∧
      (∃ t, exec (.ldF x) s = .next t ∧ t.index.toNat = 0x050 + 5 * (s.reg x).toNat ∧ OnlyChanges (· = .index) s t)

/-- R203: where the three bytes lie in memory, Fx33 stores the decimal digits, hundreds first, and changes nothing else;
else it raises OutOfRangeAccess and stores nothing (the entry into the fault is notes/assumptions/1.md). The premise on
memory is the invariant of `StepKeepsMemoryCanonical`. -/
def Obligations.DecimalDigitsAreStored : Prop :=
  ∀ x : Reg,
    decodeWord (wordXKK 0xF#4 x 0x33#8) = .ok (.ldB x) ∧
    ∀ s : State,
      (s.mem.wf = true → s.index.toNat + 2 ≤ 0xFFF → ∃ t, exec (.ldB x) s = .next t ∧
        (t.readByte s.index.toNat).toNat = (s.reg x).toNat / 100 ∧
        (t.readByte (s.index.toNat + 1)).toNat = (s.reg x).toNat / 10 % 10 ∧
        (t.readByte (s.index.toNat + 2)).toNat = (s.reg x).toNat % 10 ∧
        OnlyChanges (·.IsByteIn s.index.toNat 3) s t) ∧
      (s.index.toNat + 2 > 0xFFF → Raises (.ldB x) s .outOfRangeAccess (max s.index.toNat 0x1000))

/-- R204: where all `x + 1` bytes lie in memory, Fx55 stores `V[0]` to `V[x]` in ascending order and changes nothing else,
`I` included (decision D22, notes/assumptions/8.md); else it raises OutOfRangeAccess and stores nothing (the entry into
the fault is notes/assumptions/1.md). -/
def Obligations.RegistersAreStored : Prop :=
  ∀ x : Reg,
    decodeWord (wordXKK 0xF#4 x 0x55#8) = .ok (.ldMemVx x) ∧
    ∀ s : State,
      (s.mem.wf = true → s.index.toNat + x.toNat ≤ 0xFFF → ∃ t, exec (.ldMemVx x) s = .next t ∧
        (∀ z : Reg, z.toNat ≤ x.toNat → t.readByte (s.index.toNat + z.toNat) = s.reg z) ∧
        OnlyChanges (·.IsByteIn s.index.toNat (x.toNat + 1)) s t) ∧
      (s.index.toNat + x.toNat > 0xFFF → Raises (.ldMemVx x) s .outOfRangeAccess (max s.index.toNat 0x1000))

/-- R205: where all `x + 1` bytes lie in memory, Fx65 loads `V[0]` to `V[x]` and changes nothing else, `I` and the
registers above `V[x]` included; else (decision D22, notes/assumptions/8.md) it raises OutOfRangeAccess and loads
nothing (the entry into the fault is notes/assumptions/1.md). -/
def Obligations.RegistersAreLoaded : Prop :=
  ∀ x : Reg,
    decodeWord (wordXKK 0xF#4 x 0x65#8) = .ok (.ldVxMem x) ∧
    ∀ s : State,
      (s.index.toNat + x.toNat ≤ 0xFFF → ∃ t, exec (.ldVxMem x) s = .next t ∧
        (∀ z : Reg, z.toNat ≤ x.toNat → t.reg z = s.readByte (s.index.toNat + z.toNat)) ∧
        OnlyChanges (fun p => ∃ z : Reg, z.toNat ≤ x.toNat ∧ p = .reg z) s t) ∧
      (s.index.toNat + x.toNat > 0xFFF → Raises (.ldVxMem x) s .outOfRangeAccess (max s.index.toNat 0x1000))

/-! ## 45_keypad_timers.md -/

/-- R240: Ex9E with an index of 0 to 15 skips exactly when that latch is pressed, and over the whole step `pc` moves by 4 or
by 2; a larger index raises KeyIndexOutOfRange with the index as address (decision D15, notes/assumptions/8.md; the
entry into the fault is notes/assumptions/1.md). -/
def Obligations.SkipIfPressed : Prop :=
  ∀ x : Reg,
    decodeWord (wordXKK 0xE#4 x 0x9E#8) = .ok (.skp x) ∧
    ∀ s : State,
      ((s.reg x).toNat ≤ 15 → ∃ t, exec (.skp x) s = .next t ∧
        t.pc = (if s.key.getLsbD (s.reg x).toNat = true then s.pc + 2#16 else s.pc) ∧ OnlyChanges (· = .pc) s t) ∧
      (Runs s (.skp x) → (s.reg x).toNat ≤ 15 → ∃ t, Completes s t ∧
        t.pc = s.pc + (if s.key.getLsbD (s.reg x).toNat = true then 4#16 else 2#16)) ∧
      ((s.reg x).toNat > 15 → Raises (.skp x) s .keyIndexOutOfRange (s.reg x).toNat)

/-- R241: with `P_EXA1_SOURCE_QUIRK` false ExA1 skips exactly when the latch is not pressed, and with it true when it is
(notes/assumptions/18.md); a larger index raises KeyIndexOutOfRange (decision D15, notes/assumptions/8.md; the entry into
the fault is notes/assumptions/1.md). -/
def Obligations.SkipIfNotPressed : Prop :=
  ∀ x : Reg,
    decodeWord (wordXKK 0xE#4 x 0xA1#8) = .ok (.sknp x) ∧
    ∀ s : State,
      (s.exa1SourceQuirk = false → (s.reg x).toNat ≤ 15 → ∃ t, exec (.sknp x) s = .next t ∧
        t.pc = (if s.key.getLsbD (s.reg x).toNat = true then s.pc else s.pc + 2#16) ∧ OnlyChanges (· = .pc) s t) ∧
      (s.exa1SourceQuirk = true → (s.reg x).toNat ≤ 15 → ∃ t, exec (.sknp x) s = .next t ∧
        t.pc = (if s.key.getLsbD (s.reg x).toNat = true then s.pc + 2#16 else s.pc) ∧ OnlyChanges (· = .pc) s t) ∧
      (Runs s (.sknp x) → (s.reg x).toNat ≤ 15 → ∃ t, Completes s t ∧
        t.pc = s.pc + (if s.key.getLsbD (s.reg x).toNat = s.exa1SourceQuirk then 4#16 else 2#16)) ∧
      ((s.reg x).toNat > 15 → Raises (.sknp x) s .keyIndexOutOfRange (s.reg x).toNat)

/-- R242: Fx0A stores the least pressed key (decision D16, notes/assumptions/8.md), or with none pressed rewinds `pc` by 2;
it never faults. -/
def Obligations.KeyWaitStoresTheLeastKeyOrRewinds : Prop :=
  ∀ x : Reg,
    decodeWord (wordXKK 0xF#4 x 0x0A#8) = .ok (.ldVxK x) ∧
    ∀ s : State, ∃ t, exec (.ldVxK x) s = .next t ∧
      (∀ k, k < 16 → s.key.getLsbD k = true → (∀ j, j < k → s.key.getLsbD j = false) →
        (t.reg x).toNat = k ∧ OnlyChanges (· = .reg x) s t) ∧
      (s.key = 0#16 → t.pc = s.pc - 2#16 ∧ OnlyChanges (· = .pc) s t)

/-- R243 to R245: Fx07 reads `DT` before its own step's tick; Fx15 and Fx18 load the timers, and the tick of the same step
follows. -/
def Obligations.TimerInstructionsMoveBytes : Prop :=
  ∀ x : Reg,
    decodeWord (wordXKK 0xF#4 x 0x07#8) = .ok (.ldVxDt x) ∧ decodeWord (wordXKK 0xF#4 x 0x15#8) = .ok (.ldDtVx x) ∧
    decodeWord (wordXKK 0xF#4 x 0x18#8) = .ok (.ldStVx x) ∧
    ∀ s : State,
      (∃ t, exec (.ldVxDt x) s = .next t ∧ t.reg x = s.dt ∧ OnlyChanges (· = .reg x) s t) ∧
      (∃ t, exec (.ldDtVx x) s = .next t ∧ t.dt = s.reg x ∧ OnlyChanges (· = .dt) s t) ∧
      (∃ t, exec (.ldStVx x) s = .next t ∧ t.st = s.reg x ∧ OnlyChanges (· = .st) s t) ∧
      (Runs s (.ldVxDt x) → ∃ t, Completes s t ∧ t.reg x = s.dt ∧ t.dt.toNat = s.dt.toNat - 1) ∧
      (Runs s (.ldDtVx x) → ∃ t, Completes s t ∧ t.dt.toNat = (s.reg x).toNat - 1) ∧
      (Runs s (.ldStVx x) → ∃ t, Completes s t ∧
        t.st.toNat = (if (s.reg x).toNat > 1 then (s.reg x).toNat - 1 else (s.reg x).toNat))

/-! ## 40_cycle.md: the step -/

/-- R120, R121: when the bytes at `pc + 2` decode to `i` (every instruction is well formed), the step is `exec i` of the
state with `pc` advanced by 2 and `opcode` the word there, then the tick, or the discarding of the step's writes if a
fault was raised. The word is big-endian, the byte at the lower address first (20_memory.md R62); after a step that
completes the latch holds it (10_state.md R32). -/
def Obligations.StepRunsTheDecodedInstruction : Prop :=
  ∀ (s : State) (i : Instr) (rest : List Byte),
    s.halted = false → s.fetchAddr.toNat + 1 ≤ 0xFFF → decode (s.fetchBytes s.fetchAddr.toNat) = .ok (i, rest) →
      i.wellFormed = true ∧ rest = [] ∧ s.latched.pc = s.pc + 2#16 ∧
      s.latched.opcode = s.wordAt s.fetchAddr.toNat ∧
      (∀ a, (s.wordAt a).toNat = 256 * (s.readByte a).toNat + (s.readByte (a + 1)).toNat) ∧
      (∀ t, Completes s t → t.opcode = s.wordAt s.fetchAddr.toNat) ∧
      OnlyChanges (· ∈ [.pc, .opcode]) s s.latched ∧
      step s = finish s (exec i s.latched)

/-- R120 has a step answer `Next` or `Fault`; that a faulting step, too, is a next state is the model's choice
(notes/assumptions/1.md). With it, a unit that is not halted always takes a step to a next state: no instruction is
refused and none stops the machine otherwise than through the halted state. -/
def Obligations.UnhaltedStepAnswersNext : Prop :=
  ∀ s : State, s.halted = false → ∃ t, step s = .next t

/-- R122 (decisions D7, D27): a fetch whose second byte lies above 0xFFF raises OutOfRangeAccess with no opcode and address `a`, or 0x1000
when `a` is 0xFFF, and nothing else changes; at 0xFFE the fetch is legal: no such fault. The entry as a next state is
notes/assumptions/1.md; the record's opcode bits are free. -/
def Obligations.FetchBeyondMemoryFaults : Prop :=
  ∀ s : State, s.halted = false →
    (s.fetchAddr.toNat + 1 > 0xFFF → ∃ t, step s = .next t ∧ t.halted = true ∧ t.fault.kind = .outOfRangeAccess ∧
      t.fault.opcodeValid = false ∧ t.fault.addr.toNat = max s.fetchAddr.toNat 0x1000 ∧
      OnlyChanges (· ∈ [.halted, .fault]) s t) ∧
    (s.fetchAddr.toNat ≤ 0xFFE → ∃ t, step s = .next t ∧ (t.halted = true → t.fault.opcodeValid = true))

/-- R123, 60_exceptions.md R262: a word that matches no row raises DecodeFailure with the word and its address, and
nothing else changes, `pc` and `opcode` included (decision D5; the entry into the fault is notes/assumptions/1.md). -/
def Obligations.IllegalWordFaults : Prop :=
  ∀ s : State, s.halted = false → s.fetchAddr.toNat + 1 ≤ 0xFFF →
    (∀ r ∈ rows, r.selects (s.wordAt s.fetchAddr.toNat) = false) →
      ∃ t, step s = .next t ∧ t.halted = true ∧
        t.fault = { kind := .decodeFailure, opcodeValid := true, opcode := s.wordAt s.fetchAddr.toNat,
                    addr := s.fetchAddr } ∧
        OnlyChanges (· ∈ [.halted, .fault]) s t

/-- R125: after a handler that raised no fault both timers tick, on the values it left, whatever the instruction; nothing
else changes. -/
def Obligations.EveryCompletedStepTicks : Prop :=
  ∀ (s : State) (i : Instr) (t : State), Runs s i → exec i s.latched = .next t → t.halted = false →
    ∃ u, Completes s u ∧
      u.dt.toNat = (if t.dt.toNat > 0 then t.dt.toNat - 1 else t.dt.toNat) ∧
      u.st.toNat = (if t.st.toNat > 1 then t.st.toNat - 1 else t.st.toNat) ∧
      OnlyChanges (· ∈ [.dt, .st]) t u

/-- R127: with no key pressed the step of Fx0A completes, leaves `pc` where it was before the step, so that the next step
fetches the same address again, ticks the timers and changes nothing else but the opcode latch. -/
def Obligations.KeyWaitStalls : Prop :=
  ∀ (s : State) (x : Reg), Runs s (.ldVxK x) → s.key = 0#16 →
    ∃ t, Completes s t ∧ t.pc = s.pc ∧ t.fetchAddr = s.fetchAddr ∧ t.dt.toNat = s.dt.toNat - 1 ∧
      t.st.toNat = (if s.st.toNat > 1 then s.st.toNat - 1 else s.st.toNat) ∧
      OnlyChanges (· ∈ [.opcode, .dt, .st]) s t ∧ Runs t (.ldVxK x)

/-- R130 (decision D6): a step of a halted unit has no next state and reports the recorded fault; that the answer is
Outcome.fault is the model's choice (notes/assumptions/1.md). -/
def Obligations.HaltedStepReportsTheRecordAgain : Prop :=
  ∀ s : State, s.halted = true → step s = .fault (.halted s.fault)

/-- 60_exceptions.md R268: a fault raised in the execute phase discards the whole step: the state is the one before it,
with `halted` set and the record of the raise, and the timers do not tick (decisions D5, D6; notes/assumptions/1.md). -/
def Obligations.RaisedFaultDiscardsTheStep : Prop :=
  ∀ (s : State) (i : Instr) (t : State), Runs s i → exec i s.latched = .next t → t.halted = true →
    ∃ u, step s = .next u ∧ u.halted = true ∧ u.fault = t.fault ∧ OnlyChanges (· ∈ [.halted, .fault]) s u

/-- 60_exceptions.md R260, R267 to R269: every fault, of whatever kind, changes nothing but `halted` and the record
(decisions D5, D6), and the next step reports it again. It names the word fetched, unless the fetch itself is beyond
memory, and each kind names its address and is raised by its instructions under its condition alone (codes and addresses
are decision D7, KeyIndexOutOfRange D15). The entry into a fault as a next state is notes/assumptions/1.md. -/
def Obligations.FaultsArePrecise : Prop :=
  ∀ s t : State, Faults s t →
    OnlyChanges (· ∈ [.halted, .fault]) s t ∧ step t = .fault (.halted t.fault) ∧ t.fault.kind ≠ .noFault ∧
    (t.fault.opcodeValid = false ↔ s.fetchAddr.toNat + 1 > 0xFFF) ∧
    (t.fault.opcodeValid = true → t.fault.opcode = s.wordAt s.fetchAddr.toNat) ∧
    (t.fault.opcodeValid = false →
      t.fault.kind = .outOfRangeAccess ∧ t.fault.addr.toNat = max s.fetchAddr.toNat 0x1000) ∧
    (t.fault.kind = .decodeFailure →
      t.fault.addr = s.fetchAddr ∧ ∃ e, decodeWord (s.wordAt s.fetchAddr.toNat) = .error e) ∧
    (t.fault.kind = .stackOverflow → t.fault.addr = s.fetchAddr ∧ s.sp.val = 16 ∧ ∃ nnn, Runs s (.call nnn)) ∧
    (t.fault.kind = .stackUnderflow → t.fault.addr = s.fetchAddr ∧ s.sp.val = 0 ∧ Runs s .ret) ∧
    (t.fault.kind = .outOfRangeAccess → t.fault.opcodeValid = true →
      t.fault.addr.toNat = max s.index.toNat 0x1000 ∧
      ((∃ x y n, Runs s (.drw x y n)) ∨ ∃ x, Runs s (.ldB x) ∨ Runs s (.ldMemVx x) ∨ Runs s (.ldVxMem x))) ∧
    (t.fault.kind = .keyIndexOutOfRange →
      ∃ x, (Runs s (.skp x) ∨ Runs s (.sknp x)) ∧ 15 < (s.reg x).toNat ∧ t.fault.addr.toNat = (s.reg x).toNat)

/-! ## 10_state.md: rules of the whole machine -/

/-- R25: how every instruction leaves `pc` when it completes. The condition of ExA1 is that of 45_keypad_timers.md R241
(decision D23), under the parameter the state carries by the model's choice (notes/assumptions/18.md); that `pc + 2` and
`pc - 2` wrap at 2^16, in states no run reaches, is notes/assumptions/14.md. -/
def Obligations.EveryInstructionLeavesThePcOfTheTable : Prop :=
  ∀ (s : State) (i : Instr) (t : State), s.halted = false → exec i s = .next t → t.halted = false → t.pc = pcAfter i s

/-- R26, 70_reset_and_hazards.md R311 (decision D2, notes/assumptions/8.md): after a completed 1nnn or 2nnn the next step fetches at `nnn + 2`, after a Bnnn at
`V[0] + nnn + 2`, after a 00EE two bytes after the popped address. -/
def Obligations.TransfersAreBiasedByTwo : Prop :=
  ∀ (s t : State) (nnn : Addr12), Completes s t →
    (Runs s (.jp nnn) ∨ Runs s (.call nnn) → t.fetchAddr.toNat = nnn.toNat + 2) ∧
    (Runs s (.jpV0 nnn) → t.fetchAddr.toNat = (s.reg 0#4).toNat + nnn.toNat + 2) ∧
    (Runs s .ret → ∃ j : Fin 16, j.val + 1 = s.sp.val ∧ t.fetchAddr = s.stackAt j + 2#16)

/-- R26, 41_control_flow.md R150, R152 (the source's S5): a call whose next instruction is a return comes back: `pc` is
the address of the call, so that the next step fetches the word after it, and `sp` is as before. -/
def Obligations.ReturnComesBackAfterTheCall : Prop :=
  ∀ (s : State) (nnn : Addr12), Runs s (.call nnn) → s.sp.val < 16 →
    ∃ t, Completes s t ∧ (Runs t .ret → ∃ u, Completes t u ∧ u.pc = s.fetchAddr ∧ u.fetchAddr = s.fetchAddr + 2#16 ∧
      u.sp = s.sp ∧
      OnlyChanges (fun p => p ∈ [.pc, .opcode, .dt, .st] ∨ ∃ j : Fin 16, j.val = s.sp.val ∧ p = .stack j) s u)

/-- R21, R23, R28 to R31, R35, R37: the frame of all 34 instructions: a completed one changes only what `mayChange` lists,
a faulting one only `halted` and the record. That a raise is a next state is the model's choice
(notes/assumptions/1.md), and so is the counter `draws` that Cxkk advances (notes/assumptions/4.md). -/
def Obligations.EveryInstructionChangesOnlyItsOwn : Prop :=
  ∀ (i : Instr) (s t : State), s.halted = false → exec i s = .next t →
    (t.halted = false → OnlyChanges (mayChange i s) s t) ∧
    (t.halted = true → OnlyChanges (· ∈ [.halted, .fault]) s t)

/-- R23, R28, R35, R37, R38, 20_memory.md R60: whatever a step runs, the keys and the parameter never change; a pixel changes only by 00E0 or
Dxyn, a byte of memory only by Fx33 or Fx55 and only among the bytes they store, a stack entry only by 2nnn, `I` only by
Annn, Fx1E or Fx29. -/
def Obligations.OnlyTheNamedInstructionsWrite : Prop :=
  ∀ s t : State, step s = .next t →
    t.key = s.key ∧ t.exa1SourceQuirk = s.exa1SourceQuirk ∧
    (∀ py px, t.pixel py px ≠ s.pixel py px → Runs s .cls ∨ ∃ x y n, Runs s (.drw x y n)) ∧
    (∀ a, t.readByte a ≠ s.readByte a →
      (∃ x, Runs s (.ldB x) ∧ s.index.toNat ≤ a ∧ a ≤ s.index.toNat + 2) ∨
      (∃ x : Reg, Runs s (.ldMemVx x) ∧ s.index.toNat ≤ a ∧ a ≤ s.index.toNat + x.toNat)) ∧
    (∀ j, t.stackAt j ≠ s.stackAt j → j.val = s.sp.val ∧ ∃ nnn, Runs s (.call nnn)) ∧
    (t.index ≠ s.index → (∃ nnn, Runs s (.ldI nnn)) ∨ ∃ x, Runs s (.addI x) ∨ Runs s (.ldF x))

/-- R31, 70_reset_and_hazards.md R313: the sound timer never counts to 0; a step leaves it 0 only if it was 0 or Fx18 wrote
0; and at 1 it stays at 1 under every other instruction. -/
def Obligations.SoundTimerNeverCountsToZero : Prop :=
  ∀ s t : State, step s = .next t →
    (t.st = 0x00#8 → s.st = 0x00#8 ∨ ∃ x, Runs s (.ldStVx x) ∧ s.reg x = 0x00#8) ∧
    (s.st = 0x01#8 → (∀ x, ¬ Runs s (.ldStVx x)) → t.st = 0x01#8)

/-- R31: no instruction reads the sound timer: with another value in it every instruction does the same, and the value
stays unless Fx18 writes it. -/
def Obligations.SoundTimerIsNeverRead : Prop :=
  ∀ (i : Instr) (s t : State) (b : Byte), exec i s = .next t →
    ((∀ x, i ≠ .ldStVx x) → exec i (s.setSt b) = .next (t.setSt b)) ∧
    ((∃ x, i = .ldStVx x) → exec i (s.setSt b) = .next t)

/-- R38, 40_cycle.md R129: only Ex9E, ExA1 and Fx0A read the key latches: under any other instruction a step with other
keys does the same. -/
def Obligations.KeysAreReadByThreeInstructionsOnly : Prop :=
  ∀ (s t : State) (i : Instr) (k : Word), Runs s i → step s = .next t →
    (∀ x, i ≠ .skp x ∧ i ≠ .sknp x ∧ i ≠ .ldVxK x) → step (s.setKeys k) = .next (t.setKeys k)

/-- 20_memory.md R72: a store is seen by the fetch of the very next step. Fx55 with any `x` and Fx33, storing anywhere in
memory (`I + x`, `I + 2` at most 0xFFF; beyond it they fault and store nothing): the next step's word is made of the bytes
stored where they fall on it, one, both or none, and of the old bytes elsewhere, and if it is an instruction the next step
runs it. The premise on memory is the invariant of `StepKeepsMemoryCanonical` (notes/assumptions/11.md). -/
def Obligations.NextFetchSeesTheStore : Prop :=
  ∀ (s : State) (x : Reg), s.mem.wf = true →
    (Runs s (.ldMemVx x) → s.index.toNat + x.toNat ≤ 0xFFF → CompletesAndFetches s (s.byteAfterRegs x)) ∧
    (Runs s (.ldB x) → s.index.toNat + 2 ≤ 0xFFF → CompletesAndFetches s (s.byteAfterDigits x))

/-- 70_reset_and_hazards.md R318: a jump that re-executes itself leaves all state unchanged but the timers and the opcode
latch, and the next step runs it again. -/
def Obligations.SelfJumpRepeats : Prop :=
  ∀ (s : State) (nnn : Addr12), Runs s (.jp nnn) → s.pc = nnn.setWidth 16 →
    ∃ t, Completes s t ∧ OnlyChanges (· ∈ [.opcode, .dt, .st]) s t ∧ Runs t (.jp nnn)

/-! ## Invariants -/

/-- The canonical form of memory (notes/assumptions/11.md), from every state that has it. -/
def Obligations.StepKeepsMemoryCanonical : Prop :=
  ∀ s t : State, s.mem.wf = true → step s = .next t → t.mem.wf = true

/-- What R27 and 41_control_flow.md R150 derive: `pc` never exceeds 0x10FE and no stack entry exceeds 0xFFE. -/
def Obligations.StepKeepsPcAndStackInRange : Prop :=
  ∀ s t : State, (s.pc.toNat ≤ 0x10FE ∧ ∀ j, (s.stackAt j).toNat ≤ 0xFFE) → step s = .next t →
    t.pc.toNat ≤ 0x10FE ∧ ∀ j, (t.stackAt j).toNat ≤ 0xFFE

/-- 10_state.md R33, 60_exceptions.md R260: a fault is recorded exactly when the unit is halted. -/
def Obligations.StepKeepsTheRecordWithHalted : Prop :=
  ∀ s t : State, (s.halted = true ↔ s.fault.kind ≠ .noFault) → step s = .next t →
    (t.halted = true ↔ t.fault.kind ≠ .noFault)

/-- R27: as long as entries in use are at least 2 (addresses of calls) the fetch address never wraps and is never below
0x002, and the entries in use stay so. -/
def Obligations.BytesZeroAndOneAreNeverFetched : Prop :=
  ∀ s t : State,
    (s.pc.toNat ≤ 0x10FE ∧ (∀ j, (s.stackAt j).toNat ≤ 0xFFE) ∧ ∀ j : Fin 16, j.val < s.sp.val → 2 ≤ (s.stackAt j).toNat) →
    step s = .next t →
      2 ≤ s.fetchAddr.toNat ∧ 2 ≤ t.fetchAddr.toNat ∧ ∀ j : Fin 16, j.val < t.sp.val → 2 ≤ (t.stackAt j).toNat

/-- The reset state, whatever the parameters, meets the invariants above: memory is canonical (a form that is the model's
choice, notes/assumptions/11.md), `pc` and the stack are in range, the unit is not halted and no fault is recorded, and no
entry is in use. -/
def Obligations.ResetMeetsTheInvariants : Prop :=
  ∀ p : Params,
    (State.resetWith p).mem.wf = true ∧
    ((State.resetWith p).pc.toNat ≤ 0x10FE ∧ ∀ j, ((State.resetWith p).stackAt j).toNat ≤ 0xFFE) ∧
    (State.resetWith p).halted = false ∧ (State.resetWith p).fault.kind = .noFault ∧
    ((State.resetWith p).halted = true ↔ (State.resetWith p).fault.kind ≠ .noFault) ∧ (State.resetWith p).sp.val = 0 ∧
    (∀ j : Fin 16, j.val < (State.resetWith p).sp.val → 2 ≤ ((State.resetWith p).stackAt j).toNat)

/-- The pieces determine the state: with memory in canonical form (the model's choice, notes/assumptions/11.md), two states
that agree on every piece, the model's own counter (notes/assumptions/4.md) and parameter (notes/assumptions/18.md)
included, are equal. -/
def Obligations.SamePiecesAreTheSameState : Prop :=
  ∀ s t : State, s.mem.wf = true → t.mem.wf = true → (∀ p : Piece, p.Same s t) → t = s

/-! ## Reset and the host -/

/-- 10_state.md R42: every piece of state the spec names, at reset, for every value of the two parameters (00_scope.md R5);
several values are the spec's decisions D4 and D6. `State.reset` is the reset state at the defaults, whose font the spec
marks as general knowledge (notes/assumptions/6.md). -/
def Obligations.ResetValues : Prop :=
  State.resetWith defaultParams = State.reset ∧ defaultParams.exa1SourceQuirk = false ∧
  ∀ (p : Params) (s : State), s = State.resetWith p →
    (∀ x, s.reg x = 0x00#8) ∧ s.index = 0x0000#16 ∧ s.pc = 0x01FE#16 ∧
    (∀ j, s.stackAt j = 0x0000#16) ∧ s.sp.val = 0 ∧ s.dt = 0x00#8 ∧
    s.st = 0x00#8 ∧ s.opcode = 0x0000#16 ∧ s.halted = false ∧
    s.fault = { kind := .noFault, opcodeValid := false, opcode := 0x0000#16, addr := 0x0000#16 } ∧
    (∀ (k : Nat) (h : k < 80), s.readByte (0x050 + k) = p.font[k]) ∧
    (∀ a, a ≤ 0xFFF → (a < 0x050 ∨ 0x09F < a) → s.readByte a = 0x00#8) ∧
    (∀ py px, s.pixel py px = false) ∧ s.key = 0x0000#16 ∧ s.exa1SourceQuirk = p.exa1SourceQuirk ∧
    s.fetchAddr = 0x0200#16

/-- 70_reset_and_hazards.md R307: with no program loaded, whatever the parameters, the first step raises
DecodeFailure(0x0000, 0x0200) (the entry into the fault is notes/assumptions/1.md). -/
def Obligations.EmptyMachineFaultsAtTheEntry : Prop :=
  ∀ p : Params, ∃ t, step (State.resetWith p) = .next t ∧ t.halted = true ∧
    t.fault = { kind := .decodeFailure, opcodeValid := true, opcode := 0x0000#16, addr := 0x0200#16 } ∧
    OnlyChanges (· ∈ [.halted, .fault]) (State.resetWith p) t

/-- 70_reset_and_hazards.md R306: the loader copies an image of at most 3584 bytes to 0x200 and on, verbatim, and writes
nothing else; a larger image is not loaded, which is the model's answer to a caller's error (notes/assumptions/13.md).
That memory stays canonical is about the model's form of it (notes/assumptions/11.md), not R306. -/
def Obligations.LoaderCopiesTheImage : Prop :=
  ∀ (s : State) (image : List Byte), s.mem.wf = true →
    (image.length ≤ 3584 → ∃ t, s.loadProgram image = some t ∧ t.mem.wf = true ∧
      (∀ j, j < image.length → t.readByte (0x200 + j) = image.getD j 0x00#8) ∧
      OnlyChanges (·.IsByteIn 0x200 image.length) s t) ∧
    (3584 < image.length → s.loadProgram image = none)
end

