-- ==== Sys2Proof/Laws/Decode.lean ====
section
/-! SUPPORT. The small laws of decoding and encoding: fields and words as numbers, the fields of the words the encoder
builds, the bytes of a word, and that operands are in range by their types. -/

namespace Sys2Proof

/-! ### Fields and words as numbers -/

section Numbers
variable (t n : Nibble) (x y : Reg) (kk : Byte) (a : Addr12) (w : Word) (b0 b1 : Byte)

theorem toNat_fieldT : (fieldT w).toNat = w.toNat / 4096 % 16 := by
  simp [fieldT, Nat.shiftRight_eq_div_pow]
theorem toNat_fieldX : (fieldX w).toNat = w.toNat / 256 % 16 := by
  simp [fieldX, Nat.shiftRight_eq_div_pow]
theorem toNat_fieldY : (fieldY w).toNat = w.toNat / 16 % 16 := by
  simp [fieldY, Nat.shiftRight_eq_div_pow]
theorem toNat_fieldN : (fieldN w).toNat = w.toNat % 16 := by simp [fieldN]
theorem toNat_fieldKK : (fieldKK w).toNat = w.toNat % 256 := by simp [fieldKK]
theorem toNat_fieldNNN : (fieldNNN w).toNat = w.toNat % 4096 := by simp [fieldNNN]
theorem toNat_highByte : (highByte w).toNat = w.toNat / 256 := by
  have := w.isLt
  simp [highByte, Nat.shiftRight_eq_div_pow]; omega
theorem toNat_lowByte : (lowByte w).toNat = w.toNat % 256 := by simp [lowByte]

theorem toNat_wordNNN : (wordNNN t a).toNat = t.toNat * 4096 + a.toNat :=
  (BitVec.toNat_append t a).trans (by rw [← Nat.shiftLeft_add_eq_or_of_lt a.isLt, Nat.shiftLeft_eq])

theorem toNat_wordXKK : (wordXKK t x kk).toNat = t.toNat * 4096 + x.toNat * 256 + kk.toNat := by
  refine (BitVec.toNat_append (t ++ x) kk).trans ?_
  rw [← Nat.shiftLeft_add_eq_or_of_lt kk.isLt, BitVec.toNat_append, ← Nat.shiftLeft_add_eq_or_of_lt x.isLt]
  simp only [Nat.shiftLeft_eq]
  omega

theorem toNat_wordXYN : (wordXYN t x y n).toNat = t.toNat * 4096 + x.toNat * 256 + y.toNat * 16 + n.toNat := by
  refine (BitVec.toNat_append (t ++ x ++ y) n).trans ?_
  rw [← Nat.shiftLeft_add_eq_or_of_lt n.isLt, BitVec.toNat_append, ← Nat.shiftLeft_add_eq_or_of_lt y.isLt,
    BitVec.toNat_append, ← Nat.shiftLeft_add_eq_or_of_lt x.isLt]
  simp only [Nat.shiftLeft_eq]
  omega

theorem toNat_wordOfBytes : (wordOfBytes b0 b1).toNat = b0.toNat * 256 + b1.toNat :=
  (BitVec.toNat_append b0 b1).trans (by rw [← Nat.shiftLeft_add_eq_or_of_lt b1.isLt, Nat.shiftLeft_eq])

end Numbers

/-! ### The fields of a built word -/

section Fields
variable (t n : Nibble) (x y : Reg) (kk : Byte) (a : Addr12) (w : Word) (b0 b1 : Byte)

@[simp] theorem fieldT_wordNNN : fieldT (wordNNN t a) = t := by
  apply BitVec.eq_of_toNat_eq; rw [toNat_fieldT, toNat_wordNNN]; omega
@[simp] theorem fieldNNN_wordNNN : fieldNNN (wordNNN t a) = a := by
  apply BitVec.eq_of_toNat_eq; rw [toNat_fieldNNN, toNat_wordNNN]; omega

@[simp] theorem fieldT_wordXKK : fieldT (wordXKK t x kk) = t := by
  apply BitVec.eq_of_toNat_eq; rw [toNat_fieldT, toNat_wordXKK]; omega
@[simp] theorem fieldX_wordXKK : fieldX (wordXKK t x kk) = x := by
  apply BitVec.eq_of_toNat_eq; rw [toNat_fieldX, toNat_wordXKK]; omega
@[simp] theorem fieldKK_wordXKK : fieldKK (wordXKK t x kk) = kk := by
  apply BitVec.eq_of_toNat_eq; rw [toNat_fieldKK, toNat_wordXKK]; omega

@[simp] theorem fieldT_wordXYN : fieldT (wordXYN t x y n) = t := by
  apply BitVec.eq_of_toNat_eq; rw [toNat_fieldT, toNat_wordXYN]; omega
@[simp] theorem fieldX_wordXYN : fieldX (wordXYN t x y n) = x := by
  apply BitVec.eq_of_toNat_eq; rw [toNat_fieldX, toNat_wordXYN]; omega
@[simp] theorem fieldY_wordXYN : fieldY (wordXYN t x y n) = y := by
  apply BitVec.eq_of_toNat_eq; rw [toNat_fieldY, toNat_wordXYN]; omega
@[simp] theorem fieldN_wordXYN : fieldN (wordXYN t x y n) = n := by
  apply BitVec.eq_of_toNat_eq; rw [toNat_fieldN, toNat_wordXYN]; omega

/-- A word is its primary opcode and `nnn`. -/
theorem wordNNN_fields : wordNNN (fieldT w) (fieldNNN w) = w := by
  apply BitVec.eq_of_toNat_eq; rw [toNat_wordNNN, toNat_fieldT, toNat_fieldNNN]; omega

/-- A word is its primary opcode, `x` and `kk`. -/
theorem wordXKK_fields : wordXKK (fieldT w) (fieldX w) (fieldKK w) = w := by
  apply BitVec.eq_of_toNat_eq; rw [toNat_wordXKK, toNat_fieldT, toNat_fieldX, toNat_fieldKK]; omega

/-- A word is its four nibbles (30_encoding.md R91). -/
theorem wordXYN_fields : wordXYN (fieldT w) (fieldX w) (fieldY w) (fieldN w) = w := by
  apply BitVec.eq_of_toNat_eq
  rw [toNat_wordXYN, toNat_fieldT, toNat_fieldX, toNat_fieldY, toNat_fieldN]; omega

/-- The two bytes of a word make it again. -/
@[simp] theorem wordOfBytes_bytes : wordOfBytes (highByte w) (lowByte w) = w := by
  apply BitVec.eq_of_toNat_eq; rw [toNat_wordOfBytes, toNat_highByte, toNat_lowByte]; omega

@[simp] theorem highByte_wordOfBytes : highByte (wordOfBytes b0 b1) = b0 := by
  apply BitVec.eq_of_toNat_eq; rw [toNat_highByte, toNat_wordOfBytes]; omega

@[simp] theorem lowByte_wordOfBytes : lowByte (wordOfBytes b0 b1) = b1 := by
  apply BitVec.eq_of_toNat_eq; rw [toNat_lowByte, toNat_wordOfBytes]; omega

end Fields

/-! ### The masks of 30_encoding.md R96 -/

theorem getLsbD_wordNNN (t : Nibble) (a : Addr12) (i : Nat) :
    (wordNNN t a).getLsbD i = if i < 12 then a.getLsbD i else t.getLsbD (i - 12) := BitVec.getLsbD_append
theorem getLsbD_wordXKK (t : Nibble) (x : Reg) (kk : Byte) (i : Nat) :
    (wordXKK t x kk).getLsbD i = if i < 8 then kk.getLsbD i else if i - 8 < 4 then x.getLsbD (i - 8) else t.getLsbD (i - 8 - 4) :=
  BitVec.getLsbD_append.trans (by rw [BitVec.getLsbD_append])
theorem getLsbD_wordXYN (t : Nibble) (x y : Reg) (n : Nibble) (i : Nat) :
    (wordXYN t x y n).getLsbD i = if i < 4 then n.getLsbD i else if i - 4 < 4 then y.getLsbD (i - 4)
      else if i - 4 - 4 < 4 then x.getLsbD (i - 4 - 4) else t.getLsbD (i - 4 - 4 - 4) :=
  BitVec.getLsbD_append.trans (by rw [BitVec.getLsbD_append, BitVec.getLsbD_append])

/-- Mask 0xF000 keeps the primary opcode. -/
theorem and_mask_t (w : Word) : w &&& 0xF000#16 = wordNNN (fieldT w) 0#12 := by
  apply BitVec.eq_of_getLsbD_eq
  intro i hi
  rw [getLsbD_wordNNN, BitVec.getLsbD_and]
  interval_cases i <;> simp [fieldT]

/-- Mask 0xF00F keeps the first and the last nibble. -/
theorem and_mask_tn (w : Word) : w &&& 0xF00F#16 = wordXYN (fieldT w) 0#4 0#4 (fieldN w) := by
  apply BitVec.eq_of_getLsbD_eq
  intro i hi
  rw [getLsbD_wordXYN, BitVec.getLsbD_and]
  interval_cases i <;> simp [fieldT, fieldN]

/-- Mask 0xF0FF keeps the primary opcode and the low byte. -/
theorem and_mask_tkk (w : Word) : w &&& 0xF0FF#16 = wordXKK (fieldT w) 0#4 (fieldKK w) := by
  apply BitVec.eq_of_getLsbD_eq
  intro i hi
  rw [getLsbD_wordXKK, BitVec.getLsbD_and]
  interval_cases i <;> simp [fieldT, fieldKK]

/-! ### Bytes and terms -/

/-- Two bytes decode to the instruction of their word. -/
theorem decode_two_ok {b0 b1 : Byte} {i : Instr} (rest : List Byte) (h : decodeWord (wordOfBytes b0 b1) = .ok i) :
    decode (b0 :: b1 :: rest) = .ok (i, rest) := by
  simp [decode, h]

/-- Two bytes are rejected with their word. -/
theorem decode_two_error {b0 b1 : Byte} {e : Reject} (rest : List Byte)
    (h : decodeWord (wordOfBytes b0 b1) = .error e) : decode (b0 :: b1 :: rest) = .error e := by
  simp [decode, h]

/-- Every term of `Instr` is well formed: the operand types have the widths of the fields (30_encoding.md R94). -/
theorem wellFormed_all (i : Instr) : i.wellFormed = true := by
  cases i <;> simp only [Instr.wellFormed, decide_eq_true_eq] <;> omega

end Sys2Proof
end

