-- ==== Sys2Proof/Laws/Memory.lean ====
section
/-! SUPPORT. The laws of memory: a read after a write, that every operation keeps the canonical form, and that
canonical memories which read alike are equal. -/

namespace Sys2Proof.Machine

theorem Memory.read_consCell (a : Nat) (b : Byte) (m : Memory) (c : Nat) (h : m.read a = Memory.unlisted a) :
    (Memory.consCell a b m).read c = if c = a then b else m.read c := by
  unfold Memory.consCell
  split
  · by_cases hc : c = a
    · subst hc; simp [*]
    · simp [hc]
  · rfl

/-- Below its first address a canonical list lists nothing. -/
theorem Memory.read_below : ∀ (m : Memory) (lo a : Nat), Memory.wfFrom lo m = true → a < lo → m.read a = Memory.unlisted a
  | [], _, _, _, _ => rfl
  | (c, _) :: m, lo, a, h, ha => by
    simp only [Memory.wfFrom, Bool.and_eq_true, decide_eq_true_eq] at h
    have : a ≠ c := by omega
    simp only [Memory.read, this, if_false]
    exact Memory.read_below m (c + 1) a h.2 (by omega)

theorem Memory.wfFrom_mono : ∀ (m : Memory) {lo lo' : Nat}, lo' ≤ lo → Memory.wfFrom lo m = true → Memory.wfFrom lo' m = true
  | [], _, _, _, _ => rfl
  | (c, d) :: m, lo, lo', hle, h => by
    simp only [Memory.wfFrom, Bool.and_eq_true, decide_eq_true_eq] at h ⊢
    exact ⟨⟨⟨by omega, h.1.1.2⟩, h.1.2⟩, h.2⟩

theorem Memory.wfFrom_consCell {m : Memory} {a : Nat} (b : Byte) (ha : a < Config.memSize)
    (h : Memory.wfFrom (a + 1) m = true) : Memory.wfFrom a (Memory.consCell a b m) = true := by
  unfold Memory.consCell
  split
  · exact Memory.wfFrom_mono m (Nat.le_succ a) h
  · rename_i hb
    simp [Memory.wfFrom, ha, h, hb]

theorem Memory.wfFrom_insert : ∀ (m : Memory) {lo a : Nat} (b : Byte), a < Config.memSize → lo ≤ a →
    Memory.wfFrom lo m = true → Memory.wfFrom lo (Memory.insert m a b) = true
  | [], _, a, b, ha, hlo, _ => Memory.wfFrom_mono _ hlo (Memory.wfFrom_consCell b ha rfl)
  | (c, d) :: m, lo, a, b, ha, hlo, h => by
    simp only [Memory.wfFrom, Bool.and_eq_true, decide_eq_true_eq] at h
    unfold Memory.insert
    split
    · rename_i hac
      apply Memory.wfFrom_mono _ hlo
      apply Memory.wfFrom_consCell b ha
      simp only [Memory.wfFrom, Bool.and_eq_true, decide_eq_true_eq]
      exact ⟨⟨⟨hac, h.1.1.2⟩, h.1.2⟩, h.2⟩
    · split
      · rename_i hac
        subst hac
        exact Memory.wfFrom_mono _ hlo (Memory.wfFrom_consCell b ha h.2)
      · rename_i h1 h2
        simp only [Memory.wfFrom, Bool.and_eq_true, decide_eq_true_eq]
        exact ⟨⟨⟨h.1.1.1, h.1.1.2⟩, h.1.2⟩, Memory.wfFrom_insert m b ha (by omega) h.2⟩

/-- A write keeps the canonical form. -/
theorem Memory.wf_write {m : Memory} (h : m.wf = true) (a : Nat) (b : Byte) : (m.write a b).wf = true := by
  unfold Memory.write
  split
  · exact Memory.wfFrom_insert m b ‹_› (Nat.zero_le a) h
  · exact h

/-- A write of several bytes keeps the canonical form. -/
theorem Memory.wf_writeList : ∀ (bs : List Byte) {m : Memory} (a : Nat), m.wf = true → (m.writeList a bs).wf = true
  | [], _, _, h => h
  | _ :: bs, _, a, h => Memory.wf_writeList bs (a + 1) (Memory.wf_write h a _)

theorem Memory.read_insert : ∀ (m : Memory) {lo a : Nat} (b : Byte) (c : Nat), lo ≤ a → Memory.wfFrom lo m = true →
    (Memory.insert m a b).read c = if c = a then b else m.read c
  | [], _, a, b, c, _, _ => Memory.read_consCell a b [] c rfl
  | (e, d) :: m, lo, a, b, c, hlo, h => by
    have hall := h
    simp only [Memory.wfFrom, Bool.and_eq_true, decide_eq_true_eq] at h
    unfold Memory.insert
    split
    · rename_i hae
      apply Memory.read_consCell
      have : a ≠ e := by omega
      simp only [Memory.read, this, if_false]
      exact Memory.read_below m (e + 1) a h.2 (by omega)
    · split
      · rename_i hae
        subst hae
        rw [Memory.read_consCell a b m c (Memory.read_below m (a + 1) a h.2 (by omega))]
        by_cases hc : c = a <;> simp [hc, Memory.read]
      · rename_i h1 h2
        simp only [Memory.read]
        rw [Memory.read_insert m b c (by omega) h.2]
        by_cases hc : c = e
        · have : c ≠ a := by omega
          simp [hc]
          omega
        · simp [hc]

/-- A write leaves every other byte alone, whatever the list. -/
theorem Memory.read_insert_other : ∀ (m : Memory) {a c : Nat} (b : Byte), c ≠ a → (Memory.insert m a b).read c = m.read c
  | [], a, c, b, h => by
    unfold Memory.insert Memory.consCell
    split <;> simp [Memory.read, h]
  | (e, d) :: m, a, c, b, h => by
    unfold Memory.insert Memory.consCell
    by_cases h1 : a < e
    · simp only [h1, if_true]
      split <;> simp [Memory.read, h]
    · by_cases h2 : a = e
      · subst h2
        simp only [Nat.lt_irrefl, if_false, if_true]
        split <;> simp [Memory.read, h]
      · simp only [h1, h2, if_false, Memory.read]
        rw [Memory.read_insert_other m b h]

theorem Memory.read_write_other (m : Memory) {a c : Nat} (b : Byte) (h : c ≠ a) : (m.write a b).read c = m.read c := by
  unfold Memory.write
  split
  · exact Memory.read_insert_other m b h
  · rfl

/-- A write of several bytes leaves every byte outside them alone, whatever the list. -/
theorem Memory.read_writeList_other : ∀ (bs : List Byte) (m : Memory) {a c : Nat}, ¬ (a ≤ c ∧ c < a + bs.length) →
    (m.writeList a bs).read c = m.read c
  | [], _, _, _, _ => rfl
  | b :: bs, m, a, c, h => by
    simp only [List.length_cons] at h
    simp only [Memory.writeList]
    rw [Memory.read_writeList_other bs _ (by omega), Memory.read_write_other m b (by omega)]

/-- A read after a write inside memory gives the byte written there, and what was there elsewhere. -/
theorem Memory.read_write {m : Memory} (h : m.wf = true) {a : Nat} (ha : a < Config.memSize) (b : Byte) (c : Nat) :
    (m.write a b).read c = if c = a then b else m.read c := by
  simp only [Memory.write, ha, if_true]
  exact Memory.read_insert m b c (Nat.zero_le a) h

/-- A read after a write of several bytes, all inside memory. -/
theorem Memory.read_writeList : ∀ (bs : List Byte) {m : Memory} (a : Nat) (c : Nat), m.wf = true →
    a + bs.length ≤ Config.memSize →
    (m.writeList a bs).read c = if a ≤ c ∧ c < a + bs.length then bs.getD (c - a) 0x00#8 else m.read c
  | [], _, a, c, _, _ => by
    have : ¬ (a ≤ c ∧ c < a) := by omega
    simp [Memory.writeList, this]
  | b :: bs, m, a, c, h, hl => by
    simp only [List.length_cons] at hl ⊢
    simp only [Memory.writeList]
    rw [Memory.read_writeList bs (a + 1) c (Memory.wf_write h a b) (by omega), Memory.read_write h (by omega)]
    by_cases hca : c = a
    · subst hca
      simp
    · by_cases hin : a + 1 ≤ c ∧ c < a + 1 + bs.length
      · have h1 : a ≤ c ∧ c < a + (bs.length + 1) := by omega
        have h2 : c - a = (c - (a + 1)) + 1 := by omega
        simp [hin, h1, h2]
      · have h1 : ¬ (a ≤ c ∧ c < a + (bs.length + 1)) := by omega
        rw [if_neg hin, if_neg hca, if_neg h1]

/-- Canonical lists that read alike are equal. -/
theorem Memory.eq_of_read : ∀ (m m' : Memory) {lo : Nat}, Memory.wfFrom lo m = true → Memory.wfFrom lo m' = true →
    (∀ a, m.read a = m'.read a) → m = m'
  | [], [], _, _, _, _ => rfl
  | [], (c, d) :: m', _, _, h', e => by
    simp only [Memory.wfFrom, Bool.and_eq_true, decide_eq_true_eq, bne_iff_ne, ne_eq] at h'
    have := e c
    simp only [Memory.read, if_true] at this
    exact absurd this.symm h'.1.2
  | (c, d) :: m, [], _, h, _, e => by
    simp only [Memory.wfFrom, Bool.and_eq_true, decide_eq_true_eq, bne_iff_ne, ne_eq] at h
    have := e c
    simp only [Memory.read, if_true] at this
    exact absurd this h.1.2
  | (c, d) :: m, (c', d') :: m', lo, h, h', e => by
    have hm := h
    have hm' := h'
    simp only [Memory.wfFrom, Bool.and_eq_true, decide_eq_true_eq, bne_iff_ne, ne_eq] at h h'
    have hcc : c = c' := by
      rcases Nat.lt_trichotomy c c' with hlt | heq | hgt
      · exfalso
        have := e c
        simp only [Memory.read, if_true, if_neg (Nat.ne_of_lt hlt)] at this
        rw [Memory.read_below m' (c' + 1) c h'.2 (by omega)] at this
        exact h.1.2 this
      · exact heq
      · exfalso
        have := e c'
        simp only [Memory.read, if_true, if_neg (Nat.ne_of_lt hgt)] at this
        rw [Memory.read_below m (c + 1) c' h.2 (by omega)] at this
        exact h'.1.2 this.symm
    subst hcc
    have hd : d = d' := by simpa [Memory.read] using e c
    subst hd
    congr 1
    apply Memory.eq_of_read m m' h.2 h'.2
    intro a
    by_cases hac : a = c
    · subst hac
      rw [Memory.read_below m (a + 1) a h.2 (by omega), Memory.read_below m' (a + 1) a h'.2 (by omega)]
    · simpa [Memory.read, hac] using e a

/-- Above memory a canonical list holds nothing. -/
theorem Memory.read_above : ∀ (m : Memory) {lo a : Nat}, Memory.wfFrom lo m = true → Config.memSize ≤ a →
    m.read a = Memory.unlisted a
  | [], _, _, _, _ => rfl
  | (c, d) :: m, _, a, h, ha => by
    simp only [Memory.wfFrom, Bool.and_eq_true, decide_eq_true_eq] at h
    have : a ≠ c := by omega
    simp only [Memory.read, this, if_false]
    exact Memory.read_above m h.2 ha

end Sys2Proof.Machine
end

