-- ==== Sys2Proof/Laws/State.lean ====
section
/-! SUPPORT. What every field of the state, and every accessor, is after every update: one lemma each, true by rfl, so
that no later proof unfolds a record update. -/

namespace Sys2Proof.Machine

/-! ### `State.setV` -/

@[simp] theorem State.v_setV (s : State) (a : Vector Byte 16) : (s.setV a).v = a := rfl
@[simp] theorem State.index_setV (s : State) (a : Vector Byte 16) : (s.setV a).index = s.index := rfl
@[simp] theorem State.pc_setV (s : State) (a : Vector Byte 16) : (s.setV a).pc = s.pc := rfl
@[simp] theorem State.stack_setV (s : State) (a : Vector Byte 16) : (s.setV a).stack = s.stack := rfl
@[simp] theorem State.sp_setV (s : State) (a : Vector Byte 16) : (s.setV a).sp = s.sp := rfl
@[simp] theorem State.dt_setV (s : State) (a : Vector Byte 16) : (s.setV a).dt = s.dt := rfl
@[simp] theorem State.st_setV (s : State) (a : Vector Byte 16) : (s.setV a).st = s.st := rfl
@[simp] theorem State.opcode_setV (s : State) (a : Vector Byte 16) : (s.setV a).opcode = s.opcode := rfl
@[simp] theorem State.halted_setV (s : State) (a : Vector Byte 16) : (s.setV a).halted = s.halted := rfl
@[simp] theorem State.fault_setV (s : State) (a : Vector Byte 16) : (s.setV a).fault = s.fault := rfl
@[simp] theorem State.mem_setV (s : State) (a : Vector Byte 16) : (s.setV a).mem = s.mem := rfl
@[simp] theorem State.video_setV (s : State) (a : Vector Byte 16) : (s.setV a).video = s.video := rfl
@[simp] theorem State.key_setV (s : State) (a : Vector Byte 16) : (s.setV a).key = s.key := rfl
@[simp] theorem State.draws_setV (s : State) (a : Vector Byte 16) : (s.setV a).draws = s.draws := rfl
@[simp] theorem State.exa1SourceQuirk_setV (s : State) (a : Vector Byte 16) : (s.setV a).exa1SourceQuirk = s.exa1SourceQuirk := rfl
@[simp] theorem State.readByte_setV (s : State) (a : Vector Byte 16) (b : Nat) : (s.setV a).readByte b = s.readByte b := rfl
@[simp] theorem State.stackAt_setV (s : State) (a : Vector Byte 16) (j : Fin 16) : (s.setV a).stackAt j = s.stackAt j := rfl
@[simp] theorem State.pixel_setV (s : State) (a : Vector Byte 16) (py : Fin 32) (px : Fin 64) : (s.setV a).pixel py px = s.pixel py px := rfl

/-! ### `State.setIndex` -/

@[simp] theorem State.v_setIndex (s : State) (a : Word) : (s.setIndex a).v = s.v := rfl
@[simp] theorem State.index_setIndex (s : State) (a : Word) : (s.setIndex a).index = a := rfl
@[simp] theorem State.pc_setIndex (s : State) (a : Word) : (s.setIndex a).pc = s.pc := rfl
@[simp] theorem State.stack_setIndex (s : State) (a : Word) : (s.setIndex a).stack = s.stack := rfl
@[simp] theorem State.sp_setIndex (s : State) (a : Word) : (s.setIndex a).sp = s.sp := rfl
@[simp] theorem State.dt_setIndex (s : State) (a : Word) : (s.setIndex a).dt = s.dt := rfl
@[simp] theorem State.st_setIndex (s : State) (a : Word) : (s.setIndex a).st = s.st := rfl
@[simp] theorem State.opcode_setIndex (s : State) (a : Word) : (s.setIndex a).opcode = s.opcode := rfl
@[simp] theorem State.halted_setIndex (s : State) (a : Word) : (s.setIndex a).halted = s.halted := rfl
@[simp] theorem State.fault_setIndex (s : State) (a : Word) : (s.setIndex a).fault = s.fault := rfl
@[simp] theorem State.mem_setIndex (s : State) (a : Word) : (s.setIndex a).mem = s.mem := rfl
@[simp] theorem State.video_setIndex (s : State) (a : Word) : (s.setIndex a).video = s.video := rfl
@[simp] theorem State.key_setIndex (s : State) (a : Word) : (s.setIndex a).key = s.key := rfl
@[simp] theorem State.draws_setIndex (s : State) (a : Word) : (s.setIndex a).draws = s.draws := rfl
@[simp] theorem State.exa1SourceQuirk_setIndex (s : State) (a : Word) : (s.setIndex a).exa1SourceQuirk = s.exa1SourceQuirk := rfl
@[simp] theorem State.reg_setIndex (s : State) (a : Word) (x : Reg) : (s.setIndex a).reg x = s.reg x := rfl
@[simp] theorem State.readByte_setIndex (s : State) (a : Word) (b : Nat) : (s.setIndex a).readByte b = s.readByte b := rfl
@[simp] theorem State.stackAt_setIndex (s : State) (a : Word) (j : Fin 16) : (s.setIndex a).stackAt j = s.stackAt j := rfl
@[simp] theorem State.pixel_setIndex (s : State) (a : Word) (py : Fin 32) (px : Fin 64) : (s.setIndex a).pixel py px = s.pixel py px := rfl

/-! ### `State.setPc` -/

@[simp] theorem State.v_setPc (s : State) (a : Word) : (s.setPc a).v = s.v := rfl
@[simp] theorem State.index_setPc (s : State) (a : Word) : (s.setPc a).index = s.index := rfl
@[simp] theorem State.pc_setPc (s : State) (a : Word) : (s.setPc a).pc = a := rfl
@[simp] theorem State.stack_setPc (s : State) (a : Word) : (s.setPc a).stack = s.stack := rfl
@[simp] theorem State.sp_setPc (s : State) (a : Word) : (s.setPc a).sp = s.sp := rfl
@[simp] theorem State.dt_setPc (s : State) (a : Word) : (s.setPc a).dt = s.dt := rfl
@[simp] theorem State.st_setPc (s : State) (a : Word) : (s.setPc a).st = s.st := rfl
@[simp] theorem State.opcode_setPc (s : State) (a : Word) : (s.setPc a).opcode = s.opcode := rfl
@[simp] theorem State.halted_setPc (s : State) (a : Word) : (s.setPc a).halted = s.halted := rfl
@[simp] theorem State.fault_setPc (s : State) (a : Word) : (s.setPc a).fault = s.fault := rfl
@[simp] theorem State.mem_setPc (s : State) (a : Word) : (s.setPc a).mem = s.mem := rfl
@[simp] theorem State.video_setPc (s : State) (a : Word) : (s.setPc a).video = s.video := rfl
@[simp] theorem State.key_setPc (s : State) (a : Word) : (s.setPc a).key = s.key := rfl
@[simp] theorem State.draws_setPc (s : State) (a : Word) : (s.setPc a).draws = s.draws := rfl
@[simp] theorem State.exa1SourceQuirk_setPc (s : State) (a : Word) : (s.setPc a).exa1SourceQuirk = s.exa1SourceQuirk := rfl
@[simp] theorem State.reg_setPc (s : State) (a : Word) (x : Reg) : (s.setPc a).reg x = s.reg x := rfl
@[simp] theorem State.readByte_setPc (s : State) (a : Word) (b : Nat) : (s.setPc a).readByte b = s.readByte b := rfl
@[simp] theorem State.stackAt_setPc (s : State) (a : Word) (j : Fin 16) : (s.setPc a).stackAt j = s.stackAt j := rfl
@[simp] theorem State.pixel_setPc (s : State) (a : Word) (py : Fin 32) (px : Fin 64) : (s.setPc a).pixel py px = s.pixel py px := rfl

/-! ### `State.setStack` -/

@[simp] theorem State.v_setStack (s : State) (a : Vector Word 16) : (s.setStack a).v = s.v := rfl
@[simp] theorem State.index_setStack (s : State) (a : Vector Word 16) : (s.setStack a).index = s.index := rfl
@[simp] theorem State.pc_setStack (s : State) (a : Vector Word 16) : (s.setStack a).pc = s.pc := rfl
@[simp] theorem State.stack_setStack (s : State) (a : Vector Word 16) : (s.setStack a).stack = a := rfl
@[simp] theorem State.sp_setStack (s : State) (a : Vector Word 16) : (s.setStack a).sp = s.sp := rfl
@[simp] theorem State.dt_setStack (s : State) (a : Vector Word 16) : (s.setStack a).dt = s.dt := rfl
@[simp] theorem State.st_setStack (s : State) (a : Vector Word 16) : (s.setStack a).st = s.st := rfl
@[simp] theorem State.opcode_setStack (s : State) (a : Vector Word 16) : (s.setStack a).opcode = s.opcode := rfl
@[simp] theorem State.halted_setStack (s : State) (a : Vector Word 16) : (s.setStack a).halted = s.halted := rfl
@[simp] theorem State.fault_setStack (s : State) (a : Vector Word 16) : (s.setStack a).fault = s.fault := rfl
@[simp] theorem State.mem_setStack (s : State) (a : Vector Word 16) : (s.setStack a).mem = s.mem := rfl
@[simp] theorem State.video_setStack (s : State) (a : Vector Word 16) : (s.setStack a).video = s.video := rfl
@[simp] theorem State.key_setStack (s : State) (a : Vector Word 16) : (s.setStack a).key = s.key := rfl
@[simp] theorem State.draws_setStack (s : State) (a : Vector Word 16) : (s.setStack a).draws = s.draws := rfl
@[simp] theorem State.exa1SourceQuirk_setStack (s : State) (a : Vector Word 16) : (s.setStack a).exa1SourceQuirk = s.exa1SourceQuirk := rfl
@[simp] theorem State.reg_setStack (s : State) (a : Vector Word 16) (x : Reg) : (s.setStack a).reg x = s.reg x := rfl
@[simp] theorem State.readByte_setStack (s : State) (a : Vector Word 16) (b : Nat) : (s.setStack a).readByte b = s.readByte b := rfl
@[simp] theorem State.pixel_setStack (s : State) (a : Vector Word 16) (py : Fin 32) (px : Fin 64) : (s.setStack a).pixel py px = s.pixel py px := rfl

/-! ### `State.setSp` -/

@[simp] theorem State.v_setSp (s : State) (a : Fin 17) : (s.setSp a).v = s.v := rfl
@[simp] theorem State.index_setSp (s : State) (a : Fin 17) : (s.setSp a).index = s.index := rfl
@[simp] theorem State.pc_setSp (s : State) (a : Fin 17) : (s.setSp a).pc = s.pc := rfl
@[simp] theorem State.stack_setSp (s : State) (a : Fin 17) : (s.setSp a).stack = s.stack := rfl
@[simp] theorem State.sp_setSp (s : State) (a : Fin 17) : (s.setSp a).sp = a := rfl
@[simp] theorem State.dt_setSp (s : State) (a : Fin 17) : (s.setSp a).dt = s.dt := rfl
@[simp] theorem State.st_setSp (s : State) (a : Fin 17) : (s.setSp a).st = s.st := rfl
@[simp] theorem State.opcode_setSp (s : State) (a : Fin 17) : (s.setSp a).opcode = s.opcode := rfl
@[simp] theorem State.halted_setSp (s : State) (a : Fin 17) : (s.setSp a).halted = s.halted := rfl
@[simp] theorem State.fault_setSp (s : State) (a : Fin 17) : (s.setSp a).fault = s.fault := rfl
@[simp] theorem State.mem_setSp (s : State) (a : Fin 17) : (s.setSp a).mem = s.mem := rfl
@[simp] theorem State.video_setSp (s : State) (a : Fin 17) : (s.setSp a).video = s.video := rfl
@[simp] theorem State.key_setSp (s : State) (a : Fin 17) : (s.setSp a).key = s.key := rfl
@[simp] theorem State.draws_setSp (s : State) (a : Fin 17) : (s.setSp a).draws = s.draws := rfl
@[simp] theorem State.exa1SourceQuirk_setSp (s : State) (a : Fin 17) : (s.setSp a).exa1SourceQuirk = s.exa1SourceQuirk := rfl
@[simp] theorem State.reg_setSp (s : State) (a : Fin 17) (x : Reg) : (s.setSp a).reg x = s.reg x := rfl
@[simp] theorem State.readByte_setSp (s : State) (a : Fin 17) (b : Nat) : (s.setSp a).readByte b = s.readByte b := rfl
@[simp] theorem State.stackAt_setSp (s : State) (a : Fin 17) (j : Fin 16) : (s.setSp a).stackAt j = s.stackAt j := rfl
@[simp] theorem State.pixel_setSp (s : State) (a : Fin 17) (py : Fin 32) (px : Fin 64) : (s.setSp a).pixel py px = s.pixel py px := rfl

/-! ### `State.setDt` -/

@[simp] theorem State.v_setDt (s : State) (a : Byte) : (s.setDt a).v = s.v := rfl
@[simp] theorem State.index_setDt (s : State) (a : Byte) : (s.setDt a).index = s.index := rfl
@[simp] theorem State.pc_setDt (s : State) (a : Byte) : (s.setDt a).pc = s.pc := rfl
@[simp] theorem State.stack_setDt (s : State) (a : Byte) : (s.setDt a).stack = s.stack := rfl
@[simp] theorem State.sp_setDt (s : State) (a : Byte) : (s.setDt a).sp = s.sp := rfl
@[simp] theorem State.dt_setDt (s : State) (a : Byte) : (s.setDt a).dt = a := rfl
@[simp] theorem State.st_setDt (s : State) (a : Byte) : (s.setDt a).st = s.st := rfl
@[simp] theorem State.opcode_setDt (s : State) (a : Byte) : (s.setDt a).opcode = s.opcode := rfl
@[simp] theorem State.halted_setDt (s : State) (a : Byte) : (s.setDt a).halted = s.halted := rfl
@[simp] theorem State.fault_setDt (s : State) (a : Byte) : (s.setDt a).fault = s.fault := rfl
@[simp] theorem State.mem_setDt (s : State) (a : Byte) : (s.setDt a).mem = s.mem := rfl
@[simp] theorem State.video_setDt (s : State) (a : Byte) : (s.setDt a).video = s.video := rfl
@[simp] theorem State.key_setDt (s : State) (a : Byte) : (s.setDt a).key = s.key := rfl
@[simp] theorem State.draws_setDt (s : State) (a : Byte) : (s.setDt a).draws = s.draws := rfl
@[simp] theorem State.exa1SourceQuirk_setDt (s : State) (a : Byte) : (s.setDt a).exa1SourceQuirk = s.exa1SourceQuirk := rfl
@[simp] theorem State.reg_setDt (s : State) (a : Byte) (x : Reg) : (s.setDt a).reg x = s.reg x := rfl
@[simp] theorem State.readByte_setDt (s : State) (a : Byte) (b : Nat) : (s.setDt a).readByte b = s.readByte b := rfl
@[simp] theorem State.stackAt_setDt (s : State) (a : Byte) (j : Fin 16) : (s.setDt a).stackAt j = s.stackAt j := rfl
@[simp] theorem State.pixel_setDt (s : State) (a : Byte) (py : Fin 32) (px : Fin 64) : (s.setDt a).pixel py px = s.pixel py px := rfl

/-! ### `State.setSt` -/

@[simp] theorem State.v_setSt (s : State) (a : Byte) : (s.setSt a).v = s.v := rfl
@[simp] theorem State.index_setSt (s : State) (a : Byte) : (s.setSt a).index = s.index := rfl
@[simp] theorem State.pc_setSt (s : State) (a : Byte) : (s.setSt a).pc = s.pc := rfl
@[simp] theorem State.stack_setSt (s : State) (a : Byte) : (s.setSt a).stack = s.stack := rfl
@[simp] theorem State.sp_setSt (s : State) (a : Byte) : (s.setSt a).sp = s.sp := rfl
@[simp] theorem State.dt_setSt (s : State) (a : Byte) : (s.setSt a).dt = s.dt := rfl
@[simp] theorem State.st_setSt (s : State) (a : Byte) : (s.setSt a).st = a := rfl
@[simp] theorem State.opcode_setSt (s : State) (a : Byte) : (s.setSt a).opcode = s.opcode := rfl
@[simp] theorem State.halted_setSt (s : State) (a : Byte) : (s.setSt a).halted = s.halted := rfl
@[simp] theorem State.fault_setSt (s : State) (a : Byte) : (s.setSt a).fault = s.fault := rfl
@[simp] theorem State.mem_setSt (s : State) (a : Byte) : (s.setSt a).mem = s.mem := rfl
@[simp] theorem State.video_setSt (s : State) (a : Byte) : (s.setSt a).video = s.video := rfl
@[simp] theorem State.key_setSt (s : State) (a : Byte) : (s.setSt a).key = s.key := rfl
@[simp] theorem State.draws_setSt (s : State) (a : Byte) : (s.setSt a).draws = s.draws := rfl
@[simp] theorem State.exa1SourceQuirk_setSt (s : State) (a : Byte) : (s.setSt a).exa1SourceQuirk = s.exa1SourceQuirk := rfl
@[simp] theorem State.reg_setSt (s : State) (a : Byte) (x : Reg) : (s.setSt a).reg x = s.reg x := rfl
@[simp] theorem State.readByte_setSt (s : State) (a : Byte) (b : Nat) : (s.setSt a).readByte b = s.readByte b := rfl
@[simp] theorem State.stackAt_setSt (s : State) (a : Byte) (j : Fin 16) : (s.setSt a).stackAt j = s.stackAt j := rfl
@[simp] theorem State.pixel_setSt (s : State) (a : Byte) (py : Fin 32) (px : Fin 64) : (s.setSt a).pixel py px = s.pixel py px := rfl

/-! ### `State.setOpcode` -/

@[simp] theorem State.v_setOpcode (s : State) (a : Word) : (s.setOpcode a).v = s.v := rfl
@[simp] theorem State.index_setOpcode (s : State) (a : Word) : (s.setOpcode a).index = s.index := rfl
@[simp] theorem State.pc_setOpcode (s : State) (a : Word) : (s.setOpcode a).pc = s.pc := rfl
@[simp] theorem State.stack_setOpcode (s : State) (a : Word) : (s.setOpcode a).stack = s.stack := rfl
@[simp] theorem State.sp_setOpcode (s : State) (a : Word) : (s.setOpcode a).sp = s.sp := rfl
@[simp] theorem State.dt_setOpcode (s : State) (a : Word) : (s.setOpcode a).dt = s.dt := rfl
@[simp] theorem State.st_setOpcode (s : State) (a : Word) : (s.setOpcode a).st = s.st := rfl
@[simp] theorem State.opcode_setOpcode (s : State) (a : Word) : (s.setOpcode a).opcode = a := rfl
@[simp] theorem State.halted_setOpcode (s : State) (a : Word) : (s.setOpcode a).halted = s.halted := rfl
@[simp] theorem State.fault_setOpcode (s : State) (a : Word) : (s.setOpcode a).fault = s.fault := rfl
@[simp] theorem State.mem_setOpcode (s : State) (a : Word) : (s.setOpcode a).mem = s.mem := rfl
@[simp] theorem State.video_setOpcode (s : State) (a : Word) : (s.setOpcode a).video = s.video := rfl
@[simp] theorem State.key_setOpcode (s : State) (a : Word) : (s.setOpcode a).key = s.key := rfl
@[simp] theorem State.draws_setOpcode (s : State) (a : Word) : (s.setOpcode a).draws = s.draws := rfl
@[simp] theorem State.exa1SourceQuirk_setOpcode (s : State) (a : Word) : (s.setOpcode a).exa1SourceQuirk = s.exa1SourceQuirk := rfl
@[simp] theorem State.reg_setOpcode (s : State) (a : Word) (x : Reg) : (s.setOpcode a).reg x = s.reg x := rfl
@[simp] theorem State.readByte_setOpcode (s : State) (a : Word) (b : Nat) : (s.setOpcode a).readByte b = s.readByte b := rfl
@[simp] theorem State.stackAt_setOpcode (s : State) (a : Word) (j : Fin 16) : (s.setOpcode a).stackAt j = s.stackAt j := rfl
@[simp] theorem State.pixel_setOpcode (s : State) (a : Word) (py : Fin 32) (px : Fin 64) : (s.setOpcode a).pixel py px = s.pixel py px := rfl

/-! ### `State.setHalted` -/

@[simp] theorem State.v_setHalted (s : State) (a : Bool) : (s.setHalted a).v = s.v := rfl
@[simp] theorem State.index_setHalted (s : State) (a : Bool) : (s.setHalted a).index = s.index := rfl
@[simp] theorem State.pc_setHalted (s : State) (a : Bool) : (s.setHalted a).pc = s.pc := rfl
@[simp] theorem State.stack_setHalted (s : State) (a : Bool) : (s.setHalted a).stack = s.stack := rfl
@[simp] theorem State.sp_setHalted (s : State) (a : Bool) : (s.setHalted a).sp = s.sp := rfl
@[simp] theorem State.dt_setHalted (s : State) (a : Bool) : (s.setHalted a).dt = s.dt := rfl
@[simp] theorem State.st_setHalted (s : State) (a : Bool) : (s.setHalted a).st = s.st := rfl
@[simp] theorem State.opcode_setHalted (s : State) (a : Bool) : (s.setHalted a).opcode = s.opcode := rfl
@[simp] theorem State.halted_setHalted (s : State) (a : Bool) : (s.setHalted a).halted = a := rfl
@[simp] theorem State.fault_setHalted (s : State) (a : Bool) : (s.setHalted a).fault = s.fault := rfl
@[simp] theorem State.mem_setHalted (s : State) (a : Bool) : (s.setHalted a).mem = s.mem := rfl
@[simp] theorem State.video_setHalted (s : State) (a : Bool) : (s.setHalted a).video = s.video := rfl
@[simp] theorem State.key_setHalted (s : State) (a : Bool) : (s.setHalted a).key = s.key := rfl
@[simp] theorem State.draws_setHalted (s : State) (a : Bool) : (s.setHalted a).draws = s.draws := rfl
@[simp] theorem State.exa1SourceQuirk_setHalted (s : State) (a : Bool) : (s.setHalted a).exa1SourceQuirk = s.exa1SourceQuirk := rfl
@[simp] theorem State.reg_setHalted (s : State) (a : Bool) (x : Reg) : (s.setHalted a).reg x = s.reg x := rfl
@[simp] theorem State.readByte_setHalted (s : State) (a : Bool) (b : Nat) : (s.setHalted a).readByte b = s.readByte b := rfl
@[simp] theorem State.stackAt_setHalted (s : State) (a : Bool) (j : Fin 16) : (s.setHalted a).stackAt j = s.stackAt j := rfl
@[simp] theorem State.pixel_setHalted (s : State) (a : Bool) (py : Fin 32) (px : Fin 64) : (s.setHalted a).pixel py px = s.pixel py px := rfl

/-! ### `State.setFault` -/

@[simp] theorem State.v_setFault (s : State) (a : FaultRecord) : (s.setFault a).v = s.v := rfl
@[simp] theorem State.index_setFault (s : State) (a : FaultRecord) : (s.setFault a).index = s.index := rfl
@[simp] theorem State.pc_setFault (s : State) (a : FaultRecord) : (s.setFault a).pc = s.pc := rfl
@[simp] theorem State.stack_setFault (s : State) (a : FaultRecord) : (s.setFault a).stack = s.stack := rfl
@[simp] theorem State.sp_setFault (s : State) (a : FaultRecord) : (s.setFault a).sp = s.sp := rfl
@[simp] theorem State.dt_setFault (s : State) (a : FaultRecord) : (s.setFault a).dt = s.dt := rfl
@[simp] theorem State.st_setFault (s : State) (a : FaultRecord) : (s.setFault a).st = s.st := rfl
@[simp] theorem State.opcode_setFault (s : State) (a : FaultRecord) : (s.setFault a).opcode = s.opcode := rfl
@[simp] theorem State.halted_setFault (s : State) (a : FaultRecord) : (s.setFault a).halted = s.halted := rfl
@[simp] theorem State.fault_setFault (s : State) (a : FaultRecord) : (s.setFault a).fault = a := rfl
@[simp] theorem State.mem_setFault (s : State) (a : FaultRecord) : (s.setFault a).mem = s.mem := rfl
@[simp] theorem State.video_setFault (s : State) (a : FaultRecord) : (s.setFault a).video = s.video := rfl
@[simp] theorem State.key_setFault (s : State) (a : FaultRecord) : (s.setFault a).key = s.key := rfl
@[simp] theorem State.draws_setFault (s : State) (a : FaultRecord) : (s.setFault a).draws = s.draws := rfl
@[simp] theorem State.exa1SourceQuirk_setFault (s : State) (a : FaultRecord) : (s.setFault a).exa1SourceQuirk = s.exa1SourceQuirk := rfl
@[simp] theorem State.reg_setFault (s : State) (a : FaultRecord) (x : Reg) : (s.setFault a).reg x = s.reg x := rfl
@[simp] theorem State.readByte_setFault (s : State) (a : FaultRecord) (b : Nat) : (s.setFault a).readByte b = s.readByte b := rfl
@[simp] theorem State.stackAt_setFault (s : State) (a : FaultRecord) (j : Fin 16) : (s.setFault a).stackAt j = s.stackAt j := rfl
@[simp] theorem State.pixel_setFault (s : State) (a : FaultRecord) (py : Fin 32) (px : Fin 64) : (s.setFault a).pixel py px = s.pixel py px := rfl

/-! ### `State.setMem` -/

@[simp] theorem State.v_setMem (s : State) (a : Memory) : (s.setMem a).v = s.v := rfl
@[simp] theorem State.index_setMem (s : State) (a : Memory) : (s.setMem a).index = s.index := rfl
@[simp] theorem State.pc_setMem (s : State) (a : Memory) : (s.setMem a).pc = s.pc := rfl
@[simp] theorem State.stack_setMem (s : State) (a : Memory) : (s.setMem a).stack = s.stack := rfl
@[simp] theorem State.sp_setMem (s : State) (a : Memory) : (s.setMem a).sp = s.sp := rfl
@[simp] theorem State.dt_setMem (s : State) (a : Memory) : (s.setMem a).dt = s.dt := rfl
@[simp] theorem State.st_setMem (s : State) (a : Memory) : (s.setMem a).st = s.st := rfl
@[simp] theorem State.opcode_setMem (s : State) (a : Memory) : (s.setMem a).opcode = s.opcode := rfl
@[simp] theorem State.halted_setMem (s : State) (a : Memory) : (s.setMem a).halted = s.halted := rfl
@[simp] theorem State.fault_setMem (s : State) (a : Memory) : (s.setMem a).fault = s.fault := rfl
@[simp] theorem State.mem_setMem (s : State) (a : Memory) : (s.setMem a).mem = a := rfl
@[simp] theorem State.video_setMem (s : State) (a : Memory) : (s.setMem a).video = s.video := rfl
@[simp] theorem State.key_setMem (s : State) (a : Memory) : (s.setMem a).key = s.key := rfl
@[simp] theorem State.draws_setMem (s : State) (a : Memory) : (s.setMem a).draws = s.draws := rfl
@[simp] theorem State.exa1SourceQuirk_setMem (s : State) (a : Memory) : (s.setMem a).exa1SourceQuirk = s.exa1SourceQuirk := rfl
@[simp] theorem State.reg_setMem (s : State) (a : Memory) (x : Reg) : (s.setMem a).reg x = s.reg x := rfl
@[simp] theorem State.stackAt_setMem (s : State) (a : Memory) (j : Fin 16) : (s.setMem a).stackAt j = s.stackAt j := rfl
@[simp] theorem State.pixel_setMem (s : State) (a : Memory) (py : Fin 32) (px : Fin 64) : (s.setMem a).pixel py px = s.pixel py px := rfl

/-! ### `State.setVideo` -/

@[simp] theorem State.v_setVideo (s : State) (a : Video) : (s.setVideo a).v = s.v := rfl
@[simp] theorem State.index_setVideo (s : State) (a : Video) : (s.setVideo a).index = s.index := rfl
@[simp] theorem State.pc_setVideo (s : State) (a : Video) : (s.setVideo a).pc = s.pc := rfl
@[simp] theorem State.stack_setVideo (s : State) (a : Video) : (s.setVideo a).stack = s.stack := rfl
@[simp] theorem State.sp_setVideo (s : State) (a : Video) : (s.setVideo a).sp = s.sp := rfl
@[simp] theorem State.dt_setVideo (s : State) (a : Video) : (s.setVideo a).dt = s.dt := rfl
@[simp] theorem State.st_setVideo (s : State) (a : Video) : (s.setVideo a).st = s.st := rfl
@[simp] theorem State.opcode_setVideo (s : State) (a : Video) : (s.setVideo a).opcode = s.opcode := rfl
@[simp] theorem State.halted_setVideo (s : State) (a : Video) : (s.setVideo a).halted = s.halted := rfl
@[simp] theorem State.fault_setVideo (s : State) (a : Video) : (s.setVideo a).fault = s.fault := rfl
@[simp] theorem State.mem_setVideo (s : State) (a : Video) : (s.setVideo a).mem = s.mem := rfl
@[simp] theorem State.video_setVideo (s : State) (a : Video) : (s.setVideo a).video = a := rfl
@[simp] theorem State.key_setVideo (s : State) (a : Video) : (s.setVideo a).key = s.key := rfl
@[simp] theorem State.draws_setVideo (s : State) (a : Video) : (s.setVideo a).draws = s.draws := rfl
@[simp] theorem State.exa1SourceQuirk_setVideo (s : State) (a : Video) : (s.setVideo a).exa1SourceQuirk = s.exa1SourceQuirk := rfl
@[simp] theorem State.reg_setVideo (s : State) (a : Video) (x : Reg) : (s.setVideo a).reg x = s.reg x := rfl
@[simp] theorem State.readByte_setVideo (s : State) (a : Video) (b : Nat) : (s.setVideo a).readByte b = s.readByte b := rfl
@[simp] theorem State.stackAt_setVideo (s : State) (a : Video) (j : Fin 16) : (s.setVideo a).stackAt j = s.stackAt j := rfl

/-! ### `State.setKey` -/

@[simp] theorem State.v_setKey (s : State) (a : Word) : (s.setKey a).v = s.v := rfl
@[simp] theorem State.index_setKey (s : State) (a : Word) : (s.setKey a).index = s.index := rfl
@[simp] theorem State.pc_setKey (s : State) (a : Word) : (s.setKey a).pc = s.pc := rfl
@[simp] theorem State.stack_setKey (s : State) (a : Word) : (s.setKey a).stack = s.stack := rfl
@[simp] theorem State.sp_setKey (s : State) (a : Word) : (s.setKey a).sp = s.sp := rfl
@[simp] theorem State.dt_setKey (s : State) (a : Word) : (s.setKey a).dt = s.dt := rfl
@[simp] theorem State.st_setKey (s : State) (a : Word) : (s.setKey a).st = s.st := rfl
@[simp] theorem State.opcode_setKey (s : State) (a : Word) : (s.setKey a).opcode = s.opcode := rfl
@[simp] theorem State.halted_setKey (s : State) (a : Word) : (s.setKey a).halted = s.halted := rfl
@[simp] theorem State.fault_setKey (s : State) (a : Word) : (s.setKey a).fault = s.fault := rfl
@[simp] theorem State.mem_setKey (s : State) (a : Word) : (s.setKey a).mem = s.mem := rfl
@[simp] theorem State.video_setKey (s : State) (a : Word) : (s.setKey a).video = s.video := rfl
@[simp] theorem State.key_setKey (s : State) (a : Word) : (s.setKey a).key = a := rfl
@[simp] theorem State.draws_setKey (s : State) (a : Word) : (s.setKey a).draws = s.draws := rfl
@[simp] theorem State.exa1SourceQuirk_setKey (s : State) (a : Word) : (s.setKey a).exa1SourceQuirk = s.exa1SourceQuirk := rfl
@[simp] theorem State.reg_setKey (s : State) (a : Word) (x : Reg) : (s.setKey a).reg x = s.reg x := rfl
@[simp] theorem State.readByte_setKey (s : State) (a : Word) (b : Nat) : (s.setKey a).readByte b = s.readByte b := rfl
@[simp] theorem State.stackAt_setKey (s : State) (a : Word) (j : Fin 16) : (s.setKey a).stackAt j = s.stackAt j := rfl
@[simp] theorem State.pixel_setKey (s : State) (a : Word) (py : Fin 32) (px : Fin 64) : (s.setKey a).pixel py px = s.pixel py px := rfl

/-! ### `State.setDraws` -/

@[simp] theorem State.v_setDraws (s : State) (a : Nat) : (s.setDraws a).v = s.v := rfl
@[simp] theorem State.index_setDraws (s : State) (a : Nat) : (s.setDraws a).index = s.index := rfl
@[simp] theorem State.pc_setDraws (s : State) (a : Nat) : (s.setDraws a).pc = s.pc := rfl
@[simp] theorem State.stack_setDraws (s : State) (a : Nat) : (s.setDraws a).stack = s.stack := rfl
@[simp] theorem State.sp_setDraws (s : State) (a : Nat) : (s.setDraws a).sp = s.sp := rfl
@[simp] theorem State.dt_setDraws (s : State) (a : Nat) : (s.setDraws a).dt = s.dt := rfl
@[simp] theorem State.st_setDraws (s : State) (a : Nat) : (s.setDraws a).st = s.st := rfl
@[simp] theorem State.opcode_setDraws (s : State) (a : Nat) : (s.setDraws a).opcode = s.opcode := rfl
@[simp] theorem State.halted_setDraws (s : State) (a : Nat) : (s.setDraws a).halted = s.halted := rfl
@[simp] theorem State.fault_setDraws (s : State) (a : Nat) : (s.setDraws a).fault = s.fault := rfl
@[simp] theorem State.mem_setDraws (s : State) (a : Nat) : (s.setDraws a).mem = s.mem := rfl
@[simp] theorem State.video_setDraws (s : State) (a : Nat) : (s.setDraws a).video = s.video := rfl
@[simp] theorem State.key_setDraws (s : State) (a : Nat) : (s.setDraws a).key = s.key := rfl
@[simp] theorem State.draws_setDraws (s : State) (a : Nat) : (s.setDraws a).draws = a := rfl
@[simp] theorem State.exa1SourceQuirk_setDraws (s : State) (a : Nat) : (s.setDraws a).exa1SourceQuirk = s.exa1SourceQuirk := rfl
@[simp] theorem State.reg_setDraws (s : State) (a : Nat) (x : Reg) : (s.setDraws a).reg x = s.reg x := rfl
@[simp] theorem State.readByte_setDraws (s : State) (a : Nat) (b : Nat) : (s.setDraws a).readByte b = s.readByte b := rfl
@[simp] theorem State.stackAt_setDraws (s : State) (a : Nat) (j : Fin 16) : (s.setDraws a).stackAt j = s.stackAt j := rfl
@[simp] theorem State.pixel_setDraws (s : State) (a : Nat) (py : Fin 32) (px : Fin 64) : (s.setDraws a).pixel py px = s.pixel py px := rfl

/-! ### `State.setExa1SourceQuirk` -/

@[simp] theorem State.v_setExa1SourceQuirk (s : State) (a : Bool) : (s.setExa1SourceQuirk a).v = s.v := rfl
@[simp] theorem State.index_setExa1SourceQuirk (s : State) (a : Bool) : (s.setExa1SourceQuirk a).index = s.index := rfl
@[simp] theorem State.pc_setExa1SourceQuirk (s : State) (a : Bool) : (s.setExa1SourceQuirk a).pc = s.pc := rfl
@[simp] theorem State.stack_setExa1SourceQuirk (s : State) (a : Bool) : (s.setExa1SourceQuirk a).stack = s.stack := rfl
@[simp] theorem State.sp_setExa1SourceQuirk (s : State) (a : Bool) : (s.setExa1SourceQuirk a).sp = s.sp := rfl
@[simp] theorem State.dt_setExa1SourceQuirk (s : State) (a : Bool) : (s.setExa1SourceQuirk a).dt = s.dt := rfl
@[simp] theorem State.st_setExa1SourceQuirk (s : State) (a : Bool) : (s.setExa1SourceQuirk a).st = s.st := rfl
@[simp] theorem State.opcode_setExa1SourceQuirk (s : State) (a : Bool) : (s.setExa1SourceQuirk a).opcode = s.opcode := rfl
@[simp] theorem State.halted_setExa1SourceQuirk (s : State) (a : Bool) : (s.setExa1SourceQuirk a).halted = s.halted := rfl
@[simp] theorem State.fault_setExa1SourceQuirk (s : State) (a : Bool) : (s.setExa1SourceQuirk a).fault = s.fault := rfl
@[simp] theorem State.mem_setExa1SourceQuirk (s : State) (a : Bool) : (s.setExa1SourceQuirk a).mem = s.mem := rfl
@[simp] theorem State.video_setExa1SourceQuirk (s : State) (a : Bool) : (s.setExa1SourceQuirk a).video = s.video := rfl
@[simp] theorem State.key_setExa1SourceQuirk (s : State) (a : Bool) : (s.setExa1SourceQuirk a).key = s.key := rfl
@[simp] theorem State.draws_setExa1SourceQuirk (s : State) (a : Bool) : (s.setExa1SourceQuirk a).draws = s.draws := rfl
@[simp] theorem State.exa1SourceQuirk_setExa1SourceQuirk (s : State) (a : Bool) : (s.setExa1SourceQuirk a).exa1SourceQuirk = a := rfl
@[simp] theorem State.reg_setExa1SourceQuirk (s : State) (a : Bool) (x : Reg) : (s.setExa1SourceQuirk a).reg x = s.reg x := rfl
@[simp] theorem State.readByte_setExa1SourceQuirk (s : State) (a : Bool) (b : Nat) : (s.setExa1SourceQuirk a).readByte b = s.readByte b := rfl
@[simp] theorem State.stackAt_setExa1SourceQuirk (s : State) (a : Bool) (j : Fin 16) : (s.setExa1SourceQuirk a).stackAt j = s.stackAt j := rfl
@[simp] theorem State.pixel_setExa1SourceQuirk (s : State) (a : Bool) (py : Fin 32) (px : Fin 64) : (s.setExa1SourceQuirk a).pixel py px = s.pixel py px := rfl

/-! ### `State.setReg` -/

@[simp] theorem State.index_setReg (s : State) (x : Reg) (a : Byte) : (s.setReg x a).index = s.index := rfl
@[simp] theorem State.pc_setReg (s : State) (x : Reg) (a : Byte) : (s.setReg x a).pc = s.pc := rfl
@[simp] theorem State.stack_setReg (s : State) (x : Reg) (a : Byte) : (s.setReg x a).stack = s.stack := rfl
@[simp] theorem State.sp_setReg (s : State) (x : Reg) (a : Byte) : (s.setReg x a).sp = s.sp := rfl
@[simp] theorem State.dt_setReg (s : State) (x : Reg) (a : Byte) : (s.setReg x a).dt = s.dt := rfl
@[simp] theorem State.st_setReg (s : State) (x : Reg) (a : Byte) : (s.setReg x a).st = s.st := rfl
@[simp] theorem State.opcode_setReg (s : State) (x : Reg) (a : Byte) : (s.setReg x a).opcode = s.opcode := rfl
@[simp] theorem State.halted_setReg (s : State) (x : Reg) (a : Byte) : (s.setReg x a).halted = s.halted := rfl
@[simp] theorem State.fault_setReg (s : State) (x : Reg) (a : Byte) : (s.setReg x a).fault = s.fault := rfl
@[simp] theorem State.mem_setReg (s : State) (x : Reg) (a : Byte) : (s.setReg x a).mem = s.mem := rfl
@[simp] theorem State.video_setReg (s : State) (x : Reg) (a : Byte) : (s.setReg x a).video = s.video := rfl
@[simp] theorem State.key_setReg (s : State) (x : Reg) (a : Byte) : (s.setReg x a).key = s.key := rfl
@[simp] theorem State.draws_setReg (s : State) (x : Reg) (a : Byte) : (s.setReg x a).draws = s.draws := rfl
@[simp] theorem State.exa1SourceQuirk_setReg (s : State) (x : Reg) (a : Byte) : (s.setReg x a).exa1SourceQuirk = s.exa1SourceQuirk := rfl
@[simp] theorem State.readByte_setReg (s : State) (x : Reg) (a : Byte) (c : Nat) : (s.setReg x a).readByte c = s.readByte c := rfl
@[simp] theorem State.stackAt_setReg (s : State) (x : Reg) (a : Byte) (j : Fin 16) : (s.setReg x a).stackAt j = s.stackAt j := rfl
@[simp] theorem State.pixel_setReg (s : State) (x : Reg) (a : Byte) (py : Fin 32) (px : Fin 64) : (s.setReg x a).pixel py px = s.pixel py px := rfl

/-! ### `State.setFlag` -/

@[simp] theorem State.index_setFlag (s : State) (a : Bool) : (s.setFlag a).index = s.index := rfl
@[simp] theorem State.pc_setFlag (s : State) (a : Bool) : (s.setFlag a).pc = s.pc := rfl
@[simp] theorem State.stack_setFlag (s : State) (a : Bool) : (s.setFlag a).stack = s.stack := rfl
@[simp] theorem State.sp_setFlag (s : State) (a : Bool) : (s.setFlag a).sp = s.sp := rfl
@[simp] theorem State.dt_setFlag (s : State) (a : Bool) : (s.setFlag a).dt = s.dt := rfl
@[simp] theorem State.st_setFlag (s : State) (a : Bool) : (s.setFlag a).st = s.st := rfl
@[simp] theorem State.opcode_setFlag (s : State) (a : Bool) : (s.setFlag a).opcode = s.opcode := rfl
@[simp] theorem State.halted_setFlag (s : State) (a : Bool) : (s.setFlag a).halted = s.halted := rfl
@[simp] theorem State.fault_setFlag (s : State) (a : Bool) : (s.setFlag a).fault = s.fault := rfl
@[simp] theorem State.mem_setFlag (s : State) (a : Bool) : (s.setFlag a).mem = s.mem := rfl
@[simp] theorem State.video_setFlag (s : State) (a : Bool) : (s.setFlag a).video = s.video := rfl
@[simp] theorem State.key_setFlag (s : State) (a : Bool) : (s.setFlag a).key = s.key := rfl
@[simp] theorem State.draws_setFlag (s : State) (a : Bool) : (s.setFlag a).draws = s.draws := rfl
@[simp] theorem State.exa1SourceQuirk_setFlag (s : State) (a : Bool) : (s.setFlag a).exa1SourceQuirk = s.exa1SourceQuirk := rfl
@[simp] theorem State.readByte_setFlag (s : State) (a : Bool) (c : Nat) : (s.setFlag a).readByte c = s.readByte c := rfl
@[simp] theorem State.stackAt_setFlag (s : State) (a : Bool) (j : Fin 16) : (s.setFlag a).stackAt j = s.stackAt j := rfl
@[simp] theorem State.pixel_setFlag (s : State) (a : Bool) (py : Fin 32) (px : Fin 64) : (s.setFlag a).pixel py px = s.pixel py px := rfl

/-! ### `State.writeByte` -/

@[simp] theorem State.v_writeByte (s : State) (a : Nat) (b : Byte) : (s.writeByte a b).v = s.v := rfl
@[simp] theorem State.index_writeByte (s : State) (a : Nat) (b : Byte) : (s.writeByte a b).index = s.index := rfl
@[simp] theorem State.pc_writeByte (s : State) (a : Nat) (b : Byte) : (s.writeByte a b).pc = s.pc := rfl
@[simp] theorem State.stack_writeByte (s : State) (a : Nat) (b : Byte) : (s.writeByte a b).stack = s.stack := rfl
@[simp] theorem State.sp_writeByte (s : State) (a : Nat) (b : Byte) : (s.writeByte a b).sp = s.sp := rfl
@[simp] theorem State.dt_writeByte (s : State) (a : Nat) (b : Byte) : (s.writeByte a b).dt = s.dt := rfl
@[simp] theorem State.st_writeByte (s : State) (a : Nat) (b : Byte) : (s.writeByte a b).st = s.st := rfl
@[simp] theorem State.opcode_writeByte (s : State) (a : Nat) (b : Byte) : (s.writeByte a b).opcode = s.opcode := rfl
@[simp] theorem State.halted_writeByte (s : State) (a : Nat) (b : Byte) : (s.writeByte a b).halted = s.halted := rfl
@[simp] theorem State.fault_writeByte (s : State) (a : Nat) (b : Byte) : (s.writeByte a b).fault = s.fault := rfl
@[simp] theorem State.video_writeByte (s : State) (a : Nat) (b : Byte) : (s.writeByte a b).video = s.video := rfl
@[simp] theorem State.key_writeByte (s : State) (a : Nat) (b : Byte) : (s.writeByte a b).key = s.key := rfl
@[simp] theorem State.draws_writeByte (s : State) (a : Nat) (b : Byte) : (s.writeByte a b).draws = s.draws := rfl
@[simp] theorem State.exa1SourceQuirk_writeByte (s : State) (a : Nat) (b : Byte) : (s.writeByte a b).exa1SourceQuirk = s.exa1SourceQuirk := rfl
@[simp] theorem State.reg_writeByte (s : State) (a : Nat) (b : Byte) (z : Reg) : (s.writeByte a b).reg z = s.reg z := rfl
@[simp] theorem State.stackAt_writeByte (s : State) (a : Nat) (b : Byte) (j : Fin 16) : (s.writeByte a b).stackAt j = s.stackAt j := rfl
@[simp] theorem State.pixel_writeByte (s : State) (a : Nat) (b : Byte) (py : Fin 32) (px : Fin 64) : (s.writeByte a b).pixel py px = s.pixel py px := rfl

/-! ### `State.enterFault` -/

@[simp] theorem State.v_enterFault (s : State) (r : FaultRecord) : (s.enterFault r).v = s.v := rfl
@[simp] theorem State.index_enterFault (s : State) (r : FaultRecord) : (s.enterFault r).index = s.index := rfl
@[simp] theorem State.pc_enterFault (s : State) (r : FaultRecord) : (s.enterFault r).pc = s.pc := rfl
@[simp] theorem State.stack_enterFault (s : State) (r : FaultRecord) : (s.enterFault r).stack = s.stack := rfl
@[simp] theorem State.sp_enterFault (s : State) (r : FaultRecord) : (s.enterFault r).sp = s.sp := rfl
@[simp] theorem State.dt_enterFault (s : State) (r : FaultRecord) : (s.enterFault r).dt = s.dt := rfl
@[simp] theorem State.st_enterFault (s : State) (r : FaultRecord) : (s.enterFault r).st = s.st := rfl
@[simp] theorem State.opcode_enterFault (s : State) (r : FaultRecord) : (s.enterFault r).opcode = s.opcode := rfl
@[simp] theorem State.halted_enterFault (s : State) (r : FaultRecord) : (s.enterFault r).halted = true := rfl
@[simp] theorem State.fault_enterFault (s : State) (r : FaultRecord) : (s.enterFault r).fault = r := rfl
@[simp] theorem State.mem_enterFault (s : State) (r : FaultRecord) : (s.enterFault r).mem = s.mem := rfl
@[simp] theorem State.video_enterFault (s : State) (r : FaultRecord) : (s.enterFault r).video = s.video := rfl
@[simp] theorem State.key_enterFault (s : State) (r : FaultRecord) : (s.enterFault r).key = s.key := rfl
@[simp] theorem State.draws_enterFault (s : State) (r : FaultRecord) : (s.enterFault r).draws = s.draws := rfl
@[simp] theorem State.exa1SourceQuirk_enterFault (s : State) (r : FaultRecord) : (s.enterFault r).exa1SourceQuirk = s.exa1SourceQuirk := rfl
@[simp] theorem State.reg_enterFault (s : State) (r : FaultRecord) (x : Reg) : (s.enterFault r).reg x = s.reg x := rfl
@[simp] theorem State.readByte_enterFault (s : State) (r : FaultRecord) (b : Nat) : (s.enterFault r).readByte b = s.readByte b := rfl
@[simp] theorem State.stackAt_enterFault (s : State) (r : FaultRecord) (j : Fin 16) : (s.enterFault r).stackAt j = s.stackAt j := rfl
@[simp] theorem State.pixel_enterFault (s : State) (r : FaultRecord) (py : Fin 32) (px : Fin 64) : (s.enterFault r).pixel py px = s.pixel py px := rfl

/-! ### `State.tick` -/

@[simp] theorem State.v_tick (s : State) : s.tick.v = s.v := rfl
@[simp] theorem State.index_tick (s : State) : s.tick.index = s.index := rfl
@[simp] theorem State.pc_tick (s : State) : s.tick.pc = s.pc := rfl
@[simp] theorem State.stack_tick (s : State) : s.tick.stack = s.stack := rfl
@[simp] theorem State.sp_tick (s : State) : s.tick.sp = s.sp := rfl
@[simp] theorem State.dt_tick (s : State) : s.tick.dt = tickDelay s.dt := rfl
@[simp] theorem State.st_tick (s : State) : s.tick.st = tickSound s.st := rfl
@[simp] theorem State.opcode_tick (s : State) : s.tick.opcode = s.opcode := rfl
@[simp] theorem State.halted_tick (s : State) : s.tick.halted = s.halted := rfl
@[simp] theorem State.fault_tick (s : State) : s.tick.fault = s.fault := rfl
@[simp] theorem State.mem_tick (s : State) : s.tick.mem = s.mem := rfl
@[simp] theorem State.video_tick (s : State) : s.tick.video = s.video := rfl
@[simp] theorem State.key_tick (s : State) : s.tick.key = s.key := rfl
@[simp] theorem State.draws_tick (s : State) : s.tick.draws = s.draws := rfl
@[simp] theorem State.exa1SourceQuirk_tick (s : State) : s.tick.exa1SourceQuirk = s.exa1SourceQuirk := rfl
@[simp] theorem State.reg_tick (s : State) (x : Reg) : s.tick.reg x = s.reg x := rfl
@[simp] theorem State.readByte_tick (s : State) (b : Nat) : s.tick.readByte b = s.readByte b := rfl
@[simp] theorem State.stackAt_tick (s : State) (j : Fin 16) : s.tick.stackAt j = s.stackAt j := rfl
@[simp] theorem State.pixel_tick (s : State) (py : Fin 32) (px : Fin 64) : s.tick.pixel py px = s.pixel py px := rfl

/-! ### `State.latch` -/

@[simp] theorem State.v_latch (s : State) (a w : Word) : (s.latch a w).v = s.v := rfl
@[simp] theorem State.index_latch (s : State) (a w : Word) : (s.latch a w).index = s.index := rfl
@[simp] theorem State.pc_latch (s : State) (a w : Word) : (s.latch a w).pc = a := rfl
@[simp] theorem State.stack_latch (s : State) (a w : Word) : (s.latch a w).stack = s.stack := rfl
@[simp] theorem State.sp_latch (s : State) (a w : Word) : (s.latch a w).sp = s.sp := rfl
@[simp] theorem State.dt_latch (s : State) (a w : Word) : (s.latch a w).dt = s.dt := rfl
@[simp] theorem State.st_latch (s : State) (a w : Word) : (s.latch a w).st = s.st := rfl
@[simp] theorem State.opcode_latch (s : State) (a w : Word) : (s.latch a w).opcode = w := rfl
@[simp] theorem State.halted_latch (s : State) (a w : Word) : (s.latch a w).halted = s.halted := rfl
@[simp] theorem State.fault_latch (s : State) (a w : Word) : (s.latch a w).fault = s.fault := rfl
@[simp] theorem State.mem_latch (s : State) (a w : Word) : (s.latch a w).mem = s.mem := rfl
@[simp] theorem State.video_latch (s : State) (a w : Word) : (s.latch a w).video = s.video := rfl
@[simp] theorem State.key_latch (s : State) (a w : Word) : (s.latch a w).key = s.key := rfl
@[simp] theorem State.draws_latch (s : State) (a w : Word) : (s.latch a w).draws = s.draws := rfl
@[simp] theorem State.exa1SourceQuirk_latch (s : State) (a w : Word) : (s.latch a w).exa1SourceQuirk = s.exa1SourceQuirk := rfl
@[simp] theorem State.reg_latch (s : State) (a w : Word) (x : Reg) : (s.latch a w).reg x = s.reg x := rfl
@[simp] theorem State.readByte_latch (s : State) (a w : Word) (b : Nat) : (s.latch a w).readByte b = s.readByte b := rfl
@[simp] theorem State.stackAt_latch (s : State) (a w : Word) (j : Fin 16) : (s.latch a w).stackAt j = s.stackAt j := rfl
@[simp] theorem State.pixel_latch (s : State) (a w : Word) (py : Fin 32) (px : Fin 64) : (s.latch a w).pixel py px = s.pixel py px := rfl

/-! ### Registers and pixels -/

@[simp] theorem State.reg_setReg (s : State) (x z : Reg) (b : Byte) :
    (s.setReg x b).reg z = if z = x then b else s.reg z := by
  simp only [State.reg, State.setReg, State.setV, Vector.getElem_set]
  by_cases h : z = x
  · simp [h]
  · have : x.toNat ≠ z.toNat := fun e => h (BitVec.eq_of_toNat_eq e.symm)
    simp [h, this]

@[simp] theorem State.reg_setFlag (s : State) (c : Bool) (z : Reg) :
    (s.setFlag c).reg z = if z = vf then flagByte c else s.reg z := State.reg_setReg s vf z _

/-- Two states are equal if all their fields are. -/
theorem State.ext_fields {s t : State} (hv : t.v = s.v) (hi : t.index = s.index) (hp : t.pc = s.pc)
    (hk : t.stack = s.stack) (hs : t.sp = s.sp) (hd : t.dt = s.dt) (ht : t.st = s.st) (ho : t.opcode = s.opcode)
    (hh : t.halted = s.halted) (hf : t.fault = s.fault) (hm : t.mem = s.mem) (hw : t.video = s.video)
    (hy : t.key = s.key) (hr : t.draws = s.draws) (hq : t.exa1SourceQuirk = s.exa1SourceQuirk) : t = s := by
  cases s; cases t; simp_all

/-- Registers that all read the same are the same register file. -/
theorem State.v_eq_of_reg {s t : State} (h : ∀ x, t.reg x = s.reg x) : t.v = s.v := by
  apply Vector.ext
  intro i hi
  have := h (BitVec.ofNat 4 i)
  simpa [State.reg, Nat.mod_eq_of_lt hi] using this

/-- Stack entries that all read the same are the same stack. -/
theorem State.stack_eq_of_stackAt {s t : State} (h : ∀ j, t.stackAt j = s.stackAt j) : t.stack = s.stack := by
  apply Vector.ext
  intro i hi
  exact h ⟨i, hi⟩

/-- Pixels that all read the same are the same framebuffer. -/
theorem State.video_eq_of_pixel {s t : State} (h : ∀ py px, t.pixel py px = s.pixel py px) : t.video = s.video := by
  apply Vector.ext
  intro i hi
  apply Vector.ext
  intro j hj
  exact h ⟨i, hi⟩ ⟨j, hj⟩

end Sys2Proof.Machine
end

