-- ==== Sys2Proof/Laws/Ops.lean ====
section
/-! SUPPORT. One lemma per shared operation, saying what it can do: the stack, the range check, the raise, the skip, the
block transfers, the flags, the key search. -/

namespace Sys2Proof.Machine

/-! ### The stack -/

theorem State.pop_empty {s : State} (h : s.sp.val = 0) : s.pop = none := by
  simp [State.pop, h]

theorem State.pop_some {s : State} (h : s.sp.val ≠ 0) :
    ∃ (j : Fin 16) (k : Fin 17), j.val + 1 = s.sp.val ∧ k.val + 1 = s.sp.val ∧ s.pop = some (s.stackAt j, s.setSp k) := by
  have hlt := s.sp.isLt
  refine ⟨⟨s.sp.val - 1, by omega⟩, ⟨s.sp.val - 1, by omega⟩, by simp only; omega, by simp only; omega, ?_⟩
  simp [State.pop, h, State.stackAt]

/-- What a pop can do: nothing on an empty stack, else the top entry, `sp` one less, the array untouched. -/
theorem State.pop_cases (s : State) :
    (s.sp.val = 0 ∧ s.pop = none) ∨
    ∃ (j : Fin 16) (k : Fin 17), j.val + 1 = s.sp.val ∧ k.val + 1 = s.sp.val ∧ s.pop = some (s.stackAt j, s.setSp k) := by
  by_cases h : s.sp.val = 0
  · exact .inl ⟨h, State.pop_empty h⟩
  · exact .inr (State.pop_some h)

theorem State.push_full {s : State} {w : Word} (h : s.sp.val = 16) : s.push w = none := by
  simp [State.push, h]

theorem State.push_some {s : State} {w : Word} (h : s.sp.val < 16) :
    ∃ (j : Fin 16) (k : Fin 17), j.val = s.sp.val ∧ k.val = s.sp.val + 1 ∧
      s.push w = some ((s.setStack (s.stack.set j.val w j.isLt)).setSp k) := by
  refine ⟨⟨s.sp.val, h⟩, ⟨s.sp.val + 1, by omega⟩, rfl, rfl, ?_⟩
  simp [State.push, h]

/-- What a push can do: nothing on a full stack, else the slot `sp` written and `sp` one more. -/
theorem State.push_cases (s : State) (w : Word) :
    (s.sp.val = 16 ∧ s.push w = none) ∨
    ∃ (j : Fin 16) (k : Fin 17), j.val = s.sp.val ∧ k.val = s.sp.val + 1 ∧
      s.push w = some ((s.setStack (s.stack.set j.val w j.isLt)).setSp k) := by
  by_cases h : s.sp.val = 16
  · exact .inl ⟨h, State.push_full h⟩
  · exact .inr (State.push_some (by omega))

@[simp] theorem State.stackAt_setStack_set (s : State) (j i : Fin 16) (w : Word) :
    (s.setStack (s.stack.set j.val w j.isLt)).stackAt i = if i = j then w else s.stackAt i := by
  simp only [State.stackAt, State.setStack, Vector.getElem_set]
  by_cases h : i = j
  · simp [h]
  · have : j.val ≠ i.val := fun e => h (Fin.ext e.symm)
    simp [h, this]

/-! ### The range check and the raise -/

theorem outOfRange_none {base len : Nat} (h : len = 0 ∨ base + len ≤ 0x1000) : outOfRange base len = none := by
  unfold outOfRange
  rw [if_neg]
  omega

theorem outOfRange_some {base len : Nat} (h0 : 0 < len) (h : 0x1000 < base + len) :
    outOfRange base len = some (BitVec.ofNat 16 (max base 0x1000)) := by
  unfold outOfRange
  rw [if_pos]
  omega

theorem inRange_next {base len : Nat} (s t : State) (h : len = 0 ∨ base + len ≤ 0x1000) : inRange base len s t = .next t := by
  simp [inRange, outOfRange_none h]

theorem inRange_raise {base len : Nat} (s t : State) (h0 : 0 < len) (h : 0x1000 < base + len) :
    inRange base len s t = raise .outOfRangeAccess (BitVec.ofNat 16 (max base 0x1000)) s := by
  simp [inRange, outOfRange_some h0 h]

/-- What an access can do: its effect where all bytes are inside memory, else the fault. -/
theorem inRange_cases (base len : Nat) (s t : State) :
    ((len = 0 ∨ base + len ≤ 0x1000) ∧ inRange base len s t = .next t) ∨
    (0 < len ∧ 0x1000 < base + len ∧
      inRange base len s t = raise .outOfRangeAccess (BitVec.ofNat 16 (max base 0x1000)) s) := by
  by_cases h : len = 0 ∨ base + len ≤ 0x1000
  · exact .inl ⟨h, inRange_next s t h⟩
  · exact .inr ⟨by omega, by omega, inRange_raise s t (by omega) (by omega)⟩

/-! ### The skip -/

/-- A skip moves `pc` and nothing else. -/
theorem State.skipIf_eq (s : State) (c : Bool) : s.skipIf c = s.setPc (if c then s.pc + 2#16 else s.pc) := by
  cases c <;> rfl

/-! ### Block transfers -/

theorem State.getD_firstRegs (s : State) (n k : Nat) (hk : k < n) (h16 : k < 16) :
    (s.firstRegs n).getD k 0x00#8 = s.reg (BitVec.ofNat 4 k) := by
  simp [State.firstRegs, State.reg, hk, h16, Nat.mod_eq_of_lt h16]

theorem State.length_firstRegs (s : State) (n : Nat) (h : n ≤ 16) : (s.firstRegs n).length = n := by
  simp [State.firstRegs, h]

/-- A load of `n` registers writes registers alone. -/
theorem State.loadRegs_eq_setV (s : State) (base : Nat) : ∀ n, s.loadRegs base n = s.setV (s.loadRegs base n).v
  | 0 => rfl
  | n + 1 => by
    have ih := State.loadRegs_eq_setV s base n
    simp only [State.loadRegs, State.setReg]
    rw [ih]
    rfl

/-- The registers after a load of the first `n`. -/
theorem State.reg_loadRegs (s : State) (base : Nat) (z : Reg) :
    ∀ n, n ≤ 16 → (s.loadRegs base n).reg z = if z.toNat < n then s.readByte (base + z.toNat) else s.reg z
  | 0, _ => by simp [State.loadRegs]
  | n + 1, h => by
    rw [State.loadRegs, State.reg_setReg, State.reg_loadRegs s base z n (by omega)]
    by_cases hz : z = BitVec.ofNat 4 n
    · subst hz
      have : n % 16 = n := Nat.mod_eq_of_lt (by omega)
      simp [this]
    · have hne : z.toNat ≠ n := by
        intro e
        apply hz
        apply BitVec.eq_of_toNat_eq
        have : n % 16 = n := Nat.mod_eq_of_lt (by omega)
        simp [e, this]
      have : (z.toNat < n) ↔ (z.toNat < n + 1) := by omega
      simp [hz, this]

/-! ### Flags -/

@[simp] theorem flagByte_true : flagByte true = 0x01#8 := rfl
@[simp] theorem flagByte_false : flagByte false = 0x00#8 := rfl

theorem State.reg_resultThenFlag (s : State) (x z : Reg) (r : Byte) (c : Bool) :
    (s.resultThenFlag x r c).reg z = if z = vf then flagByte c else if z = x then r else s.reg z := by
  simp [State.resultThenFlag]

theorem State.reg_flagThenResult (s : State) (x z : Reg) (r : Byte) (c : Bool) :
    (s.flagThenResult x c r).reg z = if z = x then r else if z = vf then flagByte c else s.reg z := by
  simp [State.flagThenResult]

/-! ### The key search -/

/-- What the search for the least pressed key finds. -/
theorem leastKeyFrom_cases (keys : Word) : ∀ (n k : Nat),
    (∃ m, leastKeyFrom keys k n = some m ∧ k ≤ m ∧ m < k + n ∧ keys.getLsbD m = true ∧
      ∀ j, k ≤ j → j < m → keys.getLsbD j = false) ∨
    (leastKeyFrom keys k n = none ∧ ∀ j, k ≤ j → j < k + n → keys.getLsbD j = false)
  | 0, k => .inr ⟨rfl, fun j h h' => absurd h' (by omega)⟩
  | n + 1, k => by
    unfold leastKeyFrom
    by_cases hk : keys.getLsbD k = true
    · simp only [hk, if_true]
      exact .inl ⟨k, rfl, Nat.le_refl k, by omega, hk, fun j h h' => absurd h' (by omega)⟩
    · have hk' : keys.getLsbD k = false := by simpa using hk
      simp only [hk', Bool.false_eq_true, if_false]
      rcases leastKeyFrom_cases keys n (k + 1) with ⟨m, e, h1, h2, h3, h4⟩ | ⟨e, h⟩
      · refine .inl ⟨m, e, by omega, by omega, h3, fun j hj hjm => ?_⟩
        rcases Nat.eq_or_lt_of_le hj with rfl | hlt
        · exact hk'
        · exact h4 j hlt hjm
      · refine .inr ⟨e, fun j hj hjn => ?_⟩
        rcases Nat.eq_or_lt_of_le hj with rfl | hlt
        · exact hk'
        · exact h j hlt (by omega)

/-- What Fx0A finds: the least pressed key, or no key pressed. -/
theorem State.leastKey_cases (s : State) :
    (∃ m, s.leastKey = some m ∧ m < 16 ∧ s.keyDown m = true ∧ ∀ j, j < m → s.keyDown j = false) ∨
    (s.leastKey = none ∧ ∀ j, j < 16 → s.keyDown j = false) := by
  rcases leastKeyFrom_cases s.key 16 0 with ⟨m, e, _, h2, h3, h4⟩ | ⟨e, h⟩
  · exact .inl ⟨m, e, by omega, h3, fun j hj => h4 j (Nat.zero_le j) hj⟩
  · exact .inr ⟨e, fun j hj => h j (Nat.zero_le j) (by omega)⟩

end Sys2Proof.Machine
end

