-- ==== Sys2Proof/Laws/Cycle.lean ====
section
/-! SUPPORT. What a step can do, said once (40_cycle.md R120): every statement about `step` goes through
`step_cases`. -/

namespace Sys2Proof.Machine

/-- What phases 1 and 2 can do: the fetch fault, the decode failure, or the instruction of the word at `pc + 2`. -/
theorem fetchDecode_cases (s : State) :
    (s.fetchAddr.toNat + 1 > 0xFFF ∧ fetchDecode s = .error (fetchFault s.fetchAddr)) ∨
    (s.fetchAddr.toNat + 1 ≤ 0xFFF ∧ (∃ e, decodeWord (s.wordAt s.fetchAddr.toNat) = .error e) ∧
      fetchDecode s = .error (decodeFault (s.wordAt s.fetchAddr.toNat) s.fetchAddr)) ∨
    (s.fetchAddr.toNat + 1 ≤ 0xFFF ∧ ∃ i, decodeWord (s.wordAt s.fetchAddr.toNat) = .ok i ∧
      fetchDecode s = .ok (i, s.latch s.fetchAddr (s.wordAt s.fetchAddr.toNat))) := by
  by_cases h : s.fetchAddr.toNat + 1 > 0xFFF
  · exact .inl ⟨h, by simp [fetchDecode, h]⟩
  · right
    cases hd : decodeWord (s.wordAt s.fetchAddr.toNat) with
    | error e => exact .inl ⟨by omega, ⟨e, rfl⟩, by simp [fetchDecode, h, State.fetchBytes, decode_two_error [] hd]⟩
    | ok i => exact .inr ⟨by omega, i, rfl, by simp [fetchDecode, h, State.fetchBytes, decode_two_ok [] hd]⟩

/-- The execute phase always answers a next state: no meaning stops. -/
theorem exec_isNext (i : Instr) (s : State) : ∃ t, exec i s = .next t := by
  cases i with
  | ret => rcases s.pop_cases with ⟨_, e⟩ | ⟨_, _, _, _, e⟩ <;> simp [exec, execRet, e, raise]
  | call nnn => rcases s.push_cases s.pc with ⟨_, e⟩ | ⟨_, _, _, _, e⟩ <;> simp [exec, execCall, e, raise]
  | ldB x => rcases inRange_cases (s.ea 0) 3 s _ with ⟨_, e⟩ | ⟨_, _, e⟩ <;> exact ⟨_, e⟩
  | ldMemVx x => rcases inRange_cases (s.ea 0) (x.toNat + 1) s _ with ⟨_, e⟩ | ⟨_, _, e⟩ <;> exact ⟨_, e⟩
  | ldVxMem x => rcases inRange_cases (s.ea 0) (x.toNat + 1) s _ with ⟨_, e⟩ | ⟨_, _, e⟩ <;> exact ⟨_, e⟩
  | drw x y n => rcases inRange_cases (s.ea 0) n.toNat s _ with ⟨_, e⟩ | ⟨_, _, e⟩ <;> exact ⟨_, e⟩
  | skp x => by_cases h : (s.reg x).toNat > 15 <;> simp [exec, execSkp, keySkip, h, raise]
  | sknp x => by_cases h : (s.reg x).toNat > 15 <;> simp [exec, execSknp, sknpWith, keySkip, h, raise]
  | ldVxK x => rcases s.leastKey_cases with ⟨_, e, _⟩ | ⟨e, _⟩ <;> simp [exec, execLdVxK, e]
  | _ => exact ⟨_, rfl⟩

/-- What a step can do: report the fault of a halted unit; take a fetch fault or a decode failure; or run the
instruction at `pc + 2`, whose raised fault discards the step and whose completion ticks. -/
theorem step_cases (s : State) :
    (s.halted = true ∧ step s = reportFault s) ∨
    (s.halted = false ∧ s.fetchAddr.toNat + 1 > 0xFFF ∧ step s = .next (s.enterFault (fetchFault s.fetchAddr))) ∨
    (s.halted = false ∧ s.fetchAddr.toNat + 1 ≤ 0xFFF ∧ (∃ e, decodeWord (s.wordAt s.fetchAddr.toNat) = .error e) ∧
      step s = .next (s.enterFault (decodeFault (s.wordAt s.fetchAddr.toNat) s.fetchAddr))) ∨
    (s.halted = false ∧ s.fetchAddr.toNat + 1 ≤ 0xFFF ∧ ∃ i t, decodeWord (s.wordAt s.fetchAddr.toNat) = .ok i ∧
      exec i (s.latch s.fetchAddr (s.wordAt s.fetchAddr.toNat)) = .next t ∧
      step s = .next (if t.halted then s.enterFault t.fault else t.tick)) := by
  by_cases hh : s.halted = true
  · exact .inl ⟨hh, by simp [step, hh]⟩
  · have hf : s.halted = false := by simpa using hh
    right
    rcases fetchDecode_cases s with ⟨h, e⟩ | ⟨h, hd, e⟩ | ⟨h, i, hd, e⟩
    · exact .inl ⟨hf, h, by simp [step, hf, e]⟩
    · exact .inr (.inl ⟨hf, h, hd, by simp [step, hf, e]⟩)
    · obtain ⟨t, ht⟩ := exec_isNext i (s.latch s.fetchAddr (s.wordAt s.fetchAddr.toNat))
      exact .inr (.inr ⟨hf, h, i, t, hd, ht, by simp [step, hf, e, ht, finish]⟩)

end Sys2Proof.Machine
end

