-- ==== Sys2Proof/Laws/Display.lean ====
section
/-! SUPPORT. The loops of Dxyn in closed form: what each pixel and the collision bit are after them. -/

namespace Sys2Proof.Machine

/-- `c` is `c0` with the pixels of `P` inverted, and its collision bit says whether one of them was set (or `c0`'s
already stood). -/
def Canvas.Inverts (c0 c : Canvas) (P : Nat → Nat → Bool) : Prop :=
  (∀ (py px : Nat) (hy : py < 32) (hx : px < 64), c.1[py][px] = (c0.1[py][px] ^^ P py px)) ∧
  (c.2 = true ↔ c0.2 = true ∨ ∃ (py px : Nat) (hy : py < 32) (hx : px < 64), P py px = true ∧ c0.1[py][px] = true)

theorem Canvas.Inverts.refl (c : Canvas) : c.Inverts c (fun _ _ => false) := by
  constructor <;> simp

theorem Canvas.Inverts.congr {c0 c : Canvas} {P Q : Nat → Nat → Bool} (h : c0.Inverts c P)
    (e : ∀ py px, py < 32 → px < 64 → P py px = Q py px) : c0.Inverts c Q := by
  refine ⟨fun py px hy hx => by rw [h.1 py px hy hx, e py px hy hx], h.2.trans (or_congr_right ?_)⟩
  constructor
  · rintro ⟨py, px, hy, hx, hp, hc⟩
    exact ⟨py, px, hy, hx, e py px hy hx ▸ hp, hc⟩
  · rintro ⟨py, px, hy, hx, hp, hc⟩
    exact ⟨py, px, hy, hx, (e py px hy hx).symm ▸ hp, hc⟩

/-- Plotting a pixel not inverted yet inverts it, inside the grid. -/
theorem Canvas.Inverts.plot {c0 c : Canvas} {P : Nat → Nat → Bool} (h : c0.Inverts c P) {px py : Nat}
    (new : py < 32 → px < 64 → P py px = false) :
    c0.Inverts (c.plot px py) (fun r q => P r q || (r == py && q == px)) := by
  unfold Canvas.plot
  split
  · rename_i hin
    have hold : c.1[py][px] = c0.1[py][px] := by
      have := h.1 py px hin.2 hin.1
      simpa [new hin.2 hin.1] using this
    constructor
    · intro r q hr hq
      simp only [Vector.getElem_set]
      by_cases hrp : py = r
      · subst hrp
        simp only [if_true, Vector.getElem_set]
        by_cases hqp : px = q
        · subst hqp
          simp [hold, new hin.2 hin.1]
        · have := h.1 py q hr hq
          simp [hqp, Ne.symm hqp, this]
      · have := h.1 r q hr hq
        simp [hrp, Ne.symm hrp, this]
    · simp only [Bool.or_eq_true, Bool.and_eq_true, beq_iff_eq]
      rw [h.2, hold]
      constructor
      · rintro ((h0 | ⟨r, q, hr, hq, hp, hc⟩) | hc)
        · exact .inl h0
        · exact .inr ⟨r, q, hr, hq, .inl hp, hc⟩
        · exact .inr ⟨py, px, hin.2, hin.1, .inr ⟨rfl, rfl⟩, hc⟩
      · rintro (h0 | ⟨r, q, hr, hq, hp | ⟨rfl, rfl⟩, hc⟩)
        · exact .inl (.inl h0)
        · exact .inl (.inr ⟨r, q, hr, hq, hp, hc⟩)
        · exact .inr hc
  · rename_i hout
    apply h.congr
    intro r q hr hq
    by_cases he : r = py ∧ q = px
    · exact absurd ⟨he.2 ▸ hq, he.1 ▸ hr⟩ hout
    · have : (r == py && q == px) = false := by
        simpa only [Bool.and_eq_false_iff, beq_eq_false_iff_ne, not_and_or, ne_eq] using he
      simp [this]

/-- The first `k` columns of a sprite row. -/
theorem Canvas.Inverts.drawCols {c0 c : Canvas} {P : Nat → Nat → Bool} (h : c0.Inverts c P) (x0 py : Nat) (b : Byte)
    (new : ∀ q, P py q = false) :
    ∀ k, c0.Inverts (c.drawCols x0 py b k)
      (fun r q => P r q || (r == py && decide (x0 ≤ q ∧ q < x0 + k) && b.getLsbD (7 - (q - x0))))
  | 0 => h.congr (fun r q _ _ => by simp)
  | k + 1 => by
    have ih := Canvas.Inverts.drawCols h x0 py b new k
    simp only [Canvas.drawCols]
    split
    · rename_i hb
      refine (ih.plot (px := x0 + k) (py := py) ?_).congr ?_
      · intro _ _
        simp [new]
      · intro r q _ _
        by_cases hr : r = py
        · by_cases hq : q = x0 + k
          · subst hq; simp [hr, hb]
          · have : (x0 ≤ q ∧ q < x0 + k) ↔ (x0 ≤ q ∧ q < x0 + (k + 1)) := by omega
            simp [hr, hq, this]
        · simp [beq_eq_false_iff_ne.mpr hr]
    · rename_i hb
      refine ih.congr ?_
      intro r q _ _
      by_cases hq : q = x0 + k
      · subst hq; simp [hb]
      · have : (x0 ≤ q ∧ q < x0 + k) ↔ (x0 ≤ q ∧ q < x0 + (k + 1)) := by omega
        simp [this]

/-- The first `k` rows of a sprite: each inverts exactly the pixels of its 1 bits. -/
theorem Canvas.inverts_drawRows (c : Canvas) (mem : Memory) (base x0 y0 : Nat) :
    ∀ k, c.Inverts (c.drawRows mem base x0 y0 k) (spriteBit mem base x0 y0 k)
  | 0 => (Canvas.Inverts.refl c).congr (fun r q _ _ => by
      simp [spriteBit])
  | k + 1 => by
    have ih := Canvas.inverts_drawRows c mem base x0 y0 k
    simp only [Canvas.drawRows]
    refine (ih.drawCols x0 (y0 + k) (mem.read (base + k)) ?_ 8).congr ?_
    · intro q
      simp [spriteBit]
    · intro r q _ _
      by_cases hr : r = y0 + k
      · subst hr; simp [spriteBit]
      · have : (y0 ≤ r ∧ r < y0 + k) ↔ (y0 ≤ r ∧ r < y0 + (k + 1)) := by omega
        simp [spriteBit, hr, this]

/-- What Dxyn leaves in a pixel. -/
theorem State.pixel_drawn (s : State) (x y : Reg) (n : Nibble) (py : Fin 32) (px : Fin 64) :
    ((s.drawn x y n).1[py.val])[px.val] = (s.pixel py px ^^ s.spriteAt x y n py px) :=
  (Canvas.inverts_drawRows (s.video, false) s.mem (s.ea 0) _ _ n.toNat).1 py.val px.val py.isLt px.isLt

/-- When Dxyn reports a collision. -/
theorem State.collides_drawn (s : State) (x y : Reg) (n : Nibble) :
    (s.drawn x y n).2 = true ↔ ∃ py px, s.spriteAt x y n py px = true ∧ s.pixel py px = true := by
  rw [State.drawn, (Canvas.inverts_drawRows (s.video, false) s.mem (s.ea 0) _ _ n.toNat).2]
  simp only [Bool.false_eq_true, false_or]
  constructor
  · rintro ⟨py, px, hy, hx, hp, hc⟩
    exact ⟨⟨py, hy⟩, ⟨px, hx⟩, hp, hc⟩
  · rintro ⟨py, px, hp, hc⟩
    exact ⟨py.val, px.val, py.isLt, px.isLt, hp, hc⟩

/-- A blank framebuffer has no pixel set. -/
@[simp] theorem State.pixel_blank (s : State) (py : Fin 32) (px : Fin 64) : (s.setVideo Video.blank).pixel py px = false := by
  simp [State.pixel, Video.blank]

end Sys2Proof.Machine
end

