-- ==== Sys2Proof/Laws/Frame.lean ====
section
/-! SUPPORT. The laws of the terms in Safety.lean: frames of single updates and their composition, what a raise is, and
what the step of a unit that runs `i` answers. -/

namespace Sys2Proof

open Sys2Proof.Machine

/-! ### Frames -/

theorem OnlyChanges.refl {W : Piece → Prop} {s : State} : OnlyChanges W s s := by
  intro p _
  cases p <;> simp [Piece.Same]

theorem OnlyChanges.trans {W : Piece → Prop} {s t u : State} (h : OnlyChanges W s t) (h' : OnlyChanges W t u) :
    OnlyChanges W s u := by
  intro p hp
  have a := h p hp
  have b := h' p hp
  cases p <;> simp only [Piece.Same] at * <;> rw [b, a]

theorem OnlyChanges.mono {W W' : Piece → Prop} {s t : State} (h : OnlyChanges W s t) (le : ∀ p, W p → W' p) :
    OnlyChanges W' s t :=
  fun p hp => h p (fun hw => hp (le p hw))

theorem onlyChanges_setReg {W : Piece → Prop} {s : State} {x : Reg} {b : Byte} (h : W (.reg x)) :
    OnlyChanges W s (s.setReg x b) := by
  intro p hp
  cases p <;> simp [Piece.Same]
  intro e
  subst e
  exact absurd h hp

theorem onlyChanges_setPc {W : Piece → Prop} {s : State} {w : Word} (h : W .pc) : OnlyChanges W s (s.setPc w) := by
  intro p hp
  cases p <;> simp [Piece.Same]
  exact absurd h hp

theorem onlyChanges_setIndex {W : Piece → Prop} {s : State} {w : Word} (h : W .index) :
    OnlyChanges W s (s.setIndex w) := by
  intro p hp
  cases p <;> simp [Piece.Same]
  exact absurd h hp

theorem onlyChanges_setSp {W : Piece → Prop} {s : State} {k : Fin 17} (h : W .sp) : OnlyChanges W s (s.setSp k) := by
  intro p hp
  cases p <;> simp [Piece.Same]
  exact absurd h hp

theorem onlyChanges_setDt {W : Piece → Prop} {s : State} {b : Byte} (h : W .dt) : OnlyChanges W s (s.setDt b) := by
  intro p hp
  cases p <;> simp [Piece.Same]
  exact absurd h hp

theorem onlyChanges_setSt {W : Piece → Prop} {s : State} {b : Byte} (h : W .st) : OnlyChanges W s (s.setSt b) := by
  intro p hp
  cases p <;> simp [Piece.Same]
  exact absurd h hp

theorem onlyChanges_setOpcode {W : Piece → Prop} {s : State} {w : Word} (h : W .opcode) :
    OnlyChanges W s (s.setOpcode w) := by
  intro p hp
  cases p <;> simp [Piece.Same]
  exact absurd h hp

theorem onlyChanges_setDraws {W : Piece → Prop} {s : State} {n : Nat} (h : W .draws) : OnlyChanges W s (s.setDraws n) := by
  intro p hp
  cases p <;> simp [Piece.Same]
  exact absurd h hp

theorem onlyChanges_setVideo {W : Piece → Prop} {s : State} {d : Video} (h : ∀ p, p.IsPixel → W p) :
    OnlyChanges W s (s.setVideo d) := by
  intro p hp
  cases p <;> simp [Piece.Same]
  exact absurd (h _ ⟨_, _, rfl⟩) hp

theorem onlyChanges_setStack {W : Piece → Prop} {s : State} {j : Fin 16} {w : Word} (h : W (.stack j)) :
    OnlyChanges W s (s.setStack (s.stack.set j.val w j.isLt)) := by
  intro p hp
  cases p with
  | stack i =>
    have ne : i ≠ j := fun e => hp (e ▸ h)
    exact (State.stackAt_setStack_set s j i w).trans (if_neg ne)
  | _ => simp [Piece.Same]

theorem onlyChanges_enterFault {W : Piece → Prop} {s : State} {r : FaultRecord} (h : W .halted) (h' : W .fault) :
    OnlyChanges W s (s.enterFault r) := by
  intro p hp
  cases p <;> simp [Piece.Same]
  · exact absurd h hp
  · exact absurd h' hp

/-- A store of several bytes changes those bytes alone. -/
theorem onlyChanges_writeList {W : Piece → Prop} {s : State} {base : Nat} {bs : List Byte}
    (h : ∀ p : Piece, p.IsByteIn base bs.length → W p) : OnlyChanges W s (s.setMem (s.mem.writeList base bs)) := by
  intro p hp
  cases p with
  | memory a =>
    apply Memory.read_writeList_other
    intro hin
    exact hp (h _ ⟨a - base, by omega, by congr 1; omega⟩)
  | _ => simp [Piece.Same]

/-- A load of the first `n` registers changes those registers alone. -/
theorem onlyChanges_loadRegs {W : Piece → Prop} {s : State} {base n : Nat} (hn : n ≤ 16)
    (h : ∀ z : Reg, z.toNat < n → W (.reg z)) : OnlyChanges W s (s.loadRegs base n) := by
  intro p hp
  cases p with
  | reg z =>
    refine (State.reg_loadRegs s base z n hn).trans (if_neg fun hz => hp (h z hz))
  | _ =>
    rw [State.loadRegs_eq_setV]
    simp [Piece.Same]

/-! ### Raises -/

/-- An execute phase that ends in `raise` raises. -/
theorem raises_of_eq {i : Instr} {s : State} {k : FaultKind} {a : Word} {n : Nat} (h : exec i s = raise k a s)
    (e : a = BitVec.ofNat 16 n) : Raises i s k n :=
  ⟨_, h, rfl, by subst e; rfl, onlyChanges_enterFault (by simp) (by simp)⟩

/-! ### Steps that run an instruction -/

/-- What the step answers when it runs `i`: `finish` of its execute phase. -/
theorem step_of_runs {s : State} {i : Instr} {t : State} (h : Runs s i) (e : exec i s.latched = .next t) :
    step s = .next (if t.halted then s.enterFault t.fault else t.tick) := by
  obtain ⟨h1, h2, h3⟩ := h
  rcases step_cases s with ⟨a, _⟩ | ⟨_, a, _⟩ | ⟨_, _, ⟨e', a⟩, _⟩ | ⟨_, _, i', t', a, b, c⟩
  · simp [h1] at a
  · omega
  · rw [h3] at a
    cases a
  · rw [h3] at a
    cases a
    rw [State.latched] at e
    rw [e] at b
    cases b
    exact c

/-- An execute phase without a fault completes its step with the tick. -/
theorem completes_of_runs {s : State} {i : Instr} {t : State} (h : Runs s i) (e : exec i s.latched = .next t)
    (hh : t.halted = false) : Completes s t.tick := by
  refine ⟨?_, hh⟩
  rw [step_of_runs h e, hh]
  rfl

end Sys2Proof
end

