-- ==== Sys2Proof/Laws/Exec.lean ====
section
/-! SUPPORT. What the execute phase can do, said once for all 34 instructions: complete, leaving the fault state, the
opcode latch and the keys alone, or raise one of four faults. -/

namespace Sys2Proof.Machine

/-- The faults the execute phase of `i` can raise in the state `s`, each with its condition and the address it reports
(60_exceptions.md R260). -/
def RaisedAs (i : Instr) (s : State) (k : FaultKind) (a : Word) : Prop :=
  match k with
  | .noFault => False
  | .decodeFailure => False
  | .stackOverflow => (∃ nnn, i = .call nnn) ∧ s.sp.val = 16 ∧ a = s.pc
  | .stackUnderflow => i = .ret ∧ s.sp.val = 0 ∧ a = s.pc
  | .outOfRangeAccess =>
    ((∃ x y n, i = .drw x y n) ∨ ∃ x, i = .ldB x ∨ i = .ldMemVx x ∨ i = .ldVxMem x) ∧
      a.toNat = max s.index.toNat 0x1000
  | .keyIndexOutOfRange => ∃ x, (i = .skp x ∨ i = .sknp x) ∧ 15 < (s.reg x).toNat ∧ a = wordOf (s.reg x)

/-- The execute phase completed from `s` in `t`: halted, record, opcode latch and keys are as before. -/
def CompletedAs (s t : State) : Prop :=
  t.halted = s.halted ∧ t.fault = s.fault ∧ t.opcode = s.opcode ∧ t.key = s.key

theorem toNat_max_addr (w : Word) : (BitVec.ofNat 16 (max w.toNat 0x1000)).toNat = max w.toNat 0x1000 := by
  have := w.isLt
  simp only [BitVec.toNat_ofNat]
  rw [Nat.mod_eq_of_lt]
  omega

theorem inRange_completes {i : Instr} {s t : State} {len : Nat} (h : CompletedAs s t)
    (hi : (∃ x y n, i = .drw x y n) ∨ ∃ x, i = .ldB x ∨ i = .ldMemVx x ∨ i = .ldVxMem x) :
    (∃ u, inRange (s.ea 0) len s t = .next u ∧ CompletedAs s u) ∨
    ∃ k a, inRange (s.ea 0) len s t = raise k a s ∧ RaisedAs i s k a := by
  rcases inRange_cases (s.ea 0) len s t with ⟨_, e⟩ | ⟨_, _, e⟩
  · exact .inl ⟨t, e, h⟩
  · exact .inr ⟨.outOfRangeAccess, _, e, hi, toNat_max_addr s.index⟩

theorem keySkip_completes {i : Instr} (level : Bool) (x : Reg) (s : State) (hi : i = .skp x ∨ i = .sknp x) :
    (∃ u, keySkip level x s = .next u ∧ CompletedAs s u) ∨
    ∃ k a, keySkip level x s = raise k a s ∧ RaisedAs i s k a := by
  by_cases h : (s.reg x).toNat > 15
  · exact .inr ⟨.keyIndexOutOfRange, _, by rw [keySkip, if_pos h], x, hi, h, rfl⟩
  · refine .inl ⟨_, by rw [keySkip, if_neg h], ?_⟩
    rw [State.skipIf_eq]
    exact ⟨rfl, rfl, rfl, rfl⟩

/-- Every execute phase completes or raises. -/
theorem exec_cases (i : Instr) (s : State) :
    (∃ t, exec i s = .next t ∧ CompletedAs s t) ∨ ∃ k a, exec i s = raise k a s ∧ RaisedAs i s k a := by
  cases i with
  | ret =>
    rcases s.pop_cases with ⟨h, e⟩ | ⟨j, k, _, _, e⟩
    · exact .inr ⟨.stackUnderflow, s.pc, by simp only [exec, execRet, e], rfl, h, rfl⟩
    · exact .inl ⟨(s.setSp k).setPc (s.stackAt j), by simp only [exec, execRet, e], rfl, rfl, rfl, rfl⟩
  | call nnn =>
    rcases s.push_cases s.pc with ⟨h, e⟩ | ⟨j, k, _, _, e⟩
    · exact .inr ⟨.stackOverflow, s.pc, by simp only [exec, execCall, e], ⟨nnn, rfl⟩, h, rfl⟩
    · exact .inl ⟨((s.setStack (s.stack.set j.val s.pc j.isLt)).setSp k).setPc (addrOf nnn),
        by simp only [exec, execCall, e], rfl, rfl, rfl, rfl⟩
  | ldB x => exact inRange_completes ⟨rfl, rfl, rfl, rfl⟩ (.inr ⟨x, .inl rfl⟩)
  | ldMemVx x => exact inRange_completes ⟨rfl, rfl, rfl, rfl⟩ (.inr ⟨x, .inr (.inl rfl)⟩)
  | ldVxMem x =>
    refine inRange_completes ?_ (.inr ⟨x, .inr (.inr rfl)⟩)
    rw [State.loadRegs_eq_setV]
    exact ⟨rfl, rfl, rfl, rfl⟩
  | drw x y n => exact inRange_completes ⟨rfl, rfl, rfl, rfl⟩ (.inl ⟨x, y, n, rfl⟩)
  | skp x => exact keySkip_completes true x s (.inl rfl)
  | sknp x => exact keySkip_completes s.exa1SourceQuirk x s (.inr rfl)
  | ldVxK x =>
    rcases s.leastKey_cases with ⟨m, e, _⟩ | ⟨e, _⟩
    · exact .inl ⟨s.setReg x (BitVec.ofNat 8 m), by simp only [exec, execLdVxK, e], rfl, rfl, rfl, rfl⟩
    · exact .inl ⟨s.setPc (s.pc - 2#16), by simp only [exec, execLdVxK, e], rfl, rfl, rfl, rfl⟩
  | seImm x kk => exact .inl ⟨_, rfl, by rw [State.skipIf_eq]; exact ⟨rfl, rfl, rfl, rfl⟩⟩
  | sneImm x kk => exact .inl ⟨_, rfl, by rw [State.skipIf_eq]; exact ⟨rfl, rfl, rfl, rfl⟩⟩
  | seReg x y => exact .inl ⟨_, rfl, by rw [State.skipIf_eq]; exact ⟨rfl, rfl, rfl, rfl⟩⟩
  | sneReg x y => exact .inl ⟨_, rfl, by rw [State.skipIf_eq]; exact ⟨rfl, rfl, rfl, rfl⟩⟩
  | _ => exact .inl ⟨_, rfl, rfl, rfl, rfl, rfl⟩

end Sys2Proof.Machine
end

