-- ==== Sys2Proof/Laws/PerInstr.lean ====
section
/-! SUPPORT. The statements made per instruction. `MatchesRow`: the encoding of the instruction matches its row of
30_encoding.md R96 (`op AND mask = match`). -/

namespace Sys2Proof.Laws.MatchesRow

/-- The word of the instruction selects the instruction's own row. -/
def Statement (i : Instr) : Prop := encode i &&& i.row.mask = i.row.pattern

theorem cls : Statement .cls := by unfold Statement; decide
theorem ret : Statement .ret := by unfold Statement; decide
theorem jp (nnn : Addr12) : Statement (.jp nnn) := by
  simp only [Statement, encode, Instr.row]; rw [and_mask_t]; simp; decide
theorem call (nnn : Addr12) : Statement (.call nnn) := by
  simp only [Statement, encode, Instr.row]; rw [and_mask_t]; simp; decide
theorem seImm (x : Reg) (kk : Byte) : Statement (.seImm x kk) := by
  simp only [Statement, encode, Instr.row]; rw [and_mask_t]; simp; decide
theorem sneImm (x : Reg) (kk : Byte) : Statement (.sneImm x kk) := by
  simp only [Statement, encode, Instr.row]; rw [and_mask_t]; simp; decide
theorem seReg (x y : Reg) : Statement (.seReg x y) := by
  simp only [Statement, encode, Instr.row]; rw [and_mask_tn]; simp; decide
theorem ldImm (x : Reg) (kk : Byte) : Statement (.ldImm x kk) := by
  simp only [Statement, encode, Instr.row]; rw [and_mask_t]; simp; decide
theorem addImm (x : Reg) (kk : Byte) : Statement (.addImm x kk) := by
  simp only [Statement, encode, Instr.row]; rw [and_mask_t]; simp; decide
theorem ldReg (x y : Reg) : Statement (.ldReg x y) := by
  simp only [Statement, encode, Instr.row]; rw [and_mask_tn]; simp; decide
theorem orReg (x y : Reg) : Statement (.orReg x y) := by
  simp only [Statement, encode, Instr.row]; rw [and_mask_tn]; simp; decide
theorem andReg (x y : Reg) : Statement (.andReg x y) := by
  simp only [Statement, encode, Instr.row]; rw [and_mask_tn]; simp; decide
theorem xorReg (x y : Reg) : Statement (.xorReg x y) := by
  simp only [Statement, encode, Instr.row]; rw [and_mask_tn]; simp; decide
theorem addReg (x y : Reg) : Statement (.addReg x y) := by
  simp only [Statement, encode, Instr.row]; rw [and_mask_tn]; simp; decide
theorem subReg (x y : Reg) : Statement (.subReg x y) := by
  simp only [Statement, encode, Instr.row]; rw [and_mask_tn]; simp; decide
theorem shr (x : Reg) : Statement (.shr x) := by
  simp only [Statement, encode, Instr.row]; rw [and_mask_tn]; simp; decide
theorem subnReg (x y : Reg) : Statement (.subnReg x y) := by
  simp only [Statement, encode, Instr.row]; rw [and_mask_tn]; simp; decide
theorem shl (x : Reg) : Statement (.shl x) := by
  simp only [Statement, encode, Instr.row]; rw [and_mask_tn]; simp; decide
theorem sneReg (x y : Reg) : Statement (.sneReg x y) := by
  simp only [Statement, encode, Instr.row]; rw [and_mask_tn]; simp; decide
theorem ldI (nnn : Addr12) : Statement (.ldI nnn) := by
  simp only [Statement, encode, Instr.row]; rw [and_mask_t]; simp; decide
theorem jpV0 (nnn : Addr12) : Statement (.jpV0 nnn) := by
  simp only [Statement, encode, Instr.row]; rw [and_mask_t]; simp; decide
theorem rnd (x : Reg) (kk : Byte) : Statement (.rnd x kk) := by
  simp only [Statement, encode, Instr.row]; rw [and_mask_t]; simp; decide
theorem drw (x y : Reg) (n : Nibble) : Statement (.drw x y n) := by
  simp only [Statement, encode, Instr.row]; rw [and_mask_t]; simp; decide
theorem skp (x : Reg) : Statement (.skp x) := by
  simp only [Statement, encode, Instr.row]; rw [and_mask_tkk]; simp; decide
theorem sknp (x : Reg) : Statement (.sknp x) := by
  simp only [Statement, encode, Instr.row]; rw [and_mask_tkk]; simp; decide
theorem ldVxDt (x : Reg) : Statement (.ldVxDt x) := by
  simp only [Statement, encode, Instr.row]; rw [and_mask_tkk]; simp; decide
theorem ldVxK (x : Reg) : Statement (.ldVxK x) := by
  simp only [Statement, encode, Instr.row]; rw [and_mask_tkk]; simp; decide
theorem ldDtVx (x : Reg) : Statement (.ldDtVx x) := by
  simp only [Statement, encode, Instr.row]; rw [and_mask_tkk]; simp; decide
theorem ldStVx (x : Reg) : Statement (.ldStVx x) := by
  simp only [Statement, encode, Instr.row]; rw [and_mask_tkk]; simp; decide
theorem addI (x : Reg) : Statement (.addI x) := by
  simp only [Statement, encode, Instr.row]; rw [and_mask_tkk]; simp; decide
theorem ldF (x : Reg) : Statement (.ldF x) := by
  simp only [Statement, encode, Instr.row]; rw [and_mask_tkk]; simp; decide
theorem ldB (x : Reg) : Statement (.ldB x) := by
  simp only [Statement, encode, Instr.row]; rw [and_mask_tkk]; simp; decide
theorem ldMemVx (x : Reg) : Statement (.ldMemVx x) := by
  simp only [Statement, encode, Instr.row]; rw [and_mask_tkk]; simp; decide
theorem ldVxMem (x : Reg) : Statement (.ldVxMem x) := by
  simp only [Statement, encode, Instr.row]; rw [and_mask_tkk]; simp; decide

end Sys2Proof.Laws.MatchesRow
end

