-- ==== Sys2Proof/Laws/Reset.lean ====
section
/-! SUPPORT. Reset under any values of the parameters (00_scope.md R5): what it leaves in memory, and that every other
field is that of `State.reset`. -/

namespace Sys2Proof.Machine

@[simp] theorem State.v_resetWith (p : Params) : (State.resetWith p).v = State.reset.v := rfl
@[simp] theorem State.index_resetWith (p : Params) : (State.resetWith p).index = State.reset.index := rfl
@[simp] theorem State.pc_resetWith (p : Params) : (State.resetWith p).pc = State.reset.pc := rfl
@[simp] theorem State.stack_resetWith (p : Params) : (State.resetWith p).stack = State.reset.stack := rfl
@[simp] theorem State.sp_resetWith (p : Params) : (State.resetWith p).sp = State.reset.sp := rfl
@[simp] theorem State.dt_resetWith (p : Params) : (State.resetWith p).dt = State.reset.dt := rfl
@[simp] theorem State.st_resetWith (p : Params) : (State.resetWith p).st = State.reset.st := rfl
@[simp] theorem State.opcode_resetWith (p : Params) : (State.resetWith p).opcode = State.reset.opcode := rfl
@[simp] theorem State.halted_resetWith (p : Params) : (State.resetWith p).halted = State.reset.halted := rfl
@[simp] theorem State.fault_resetWith (p : Params) : (State.resetWith p).fault = State.reset.fault := rfl
@[simp] theorem State.video_resetWith (p : Params) : (State.resetWith p).video = State.reset.video := rfl
@[simp] theorem State.key_resetWith (p : Params) : (State.resetWith p).key = State.reset.key := rfl
@[simp] theorem State.draws_resetWith (p : Params) : (State.resetWith p).draws = State.reset.draws := rfl
@[simp] theorem State.exa1SourceQuirk_resetWith (p : Params) :
    (State.resetWith p).exa1SourceQuirk = p.exa1SourceQuirk := rfl

/-- The reset load leaves memory in canonical form, whatever the font. -/
theorem State.mem_wf_resetWith (p : Params) : (State.resetWith p).mem.wf = true := Memory.wf_writeList _ _ rfl

/-- A byte after reset: the font's where the font stands, the reset contents elsewhere. -/
theorem State.readByte_resetWith (p : Params) (a : Nat) :
    (State.resetWith p).readByte a =
      if Config.fontBase ≤ a ∧ a < Config.fontBase + 80 then p.font.toList.getD (a - Config.fontBase) 0x00#8
      else Memory.unlisted a := by
  have h := Memory.read_writeList p.font.toList (m := []) Config.fontBase a rfl
    (by simp only [Vector.length_toList]; decide)
  rw [Vector.length_toList] at h
  exact h

end Sys2Proof.Machine
end

