-- ==== Sys2Proof/Tests/Slice0.lean ====
section
/-! SUPPORT. Tests of one step each, their expected results taken from spec/95_test_vectors.md (the vector's name stands
in each comment), and a witness for every statement that has hypotheses. -/

namespace Sys2Proof.Tests

open Sys2Proof.Machine

/-! ## Helpers -/

/-- The reset state changed by `f`, with the word stored where the next step fetches. -/
def start (w : Word) (f : State → State) : State := (f State.reset).withFetchWord 16 w.toNat

/-- The same with the word at `a` (the vectors' "@ a"). -/
def startAt (a w : Word) (f : State → State) : State := start w (fun s => f (s.setPc (a - 2#16)))

/-- What `f` says of the state after one step. -/
def look {α : Type} (s : State) (f : State → α) : Option α :=
  match step s with
  | .next t => some (f t)
  | .fault _ => none
  | .refused _ => none

/-- The fault record after one step, `pc` and whether the unit is halted. -/
def lookFault (s : State) : Option (Bool × Word × FaultKind × Bool × Word × Word) :=
  look s (fun t => (t.halted, t.pc, t.fault.kind, t.fault.opcodeValid, t.fault.opcode, t.fault.addr))

/-- `VF` and `V[x]` after one step. -/
def lookFlag (s : State) (x : Reg) : Option (Byte × Byte) := look s (fun t => (t.reg x, t.reg vf))

/-- The set pixels as (px, py), top to bottom and left to right. -/
def lit (s : State) : List (Nat × Nat) :=
  s.video.toList.zipIdx.flatMap fun r => r.1.toList.zipIdx.filterMap fun c => if c.1 then some (c.2, r.2) else none

/-- Set one pixel. -/
def light (px py : Nat) (s : State) : State :=
  if h : px < 64 ∧ py < 32 then
    have hx := h.1
    have hy := h.2
    s.setVideo (s.video.set py (s.video[py].set px true))
  else s

/-! ## Words: well-formedness and decoding -/

/-- One word of each illegal class of R100 is refused: by the check and, by name, by the decoder. -/
theorem test_ill_formed_words_are_refused :
    (legalWord 0x0123#16 = false ∧ decodeWord 0x0123#16 = .error .illegal0nnn) ∧
    (legalWord 0x5121#16 = false ∧ decodeWord 0x5121#16 = .error .illegal5xyn) ∧
    (legalWord 0x8018#16 = false ∧ decodeWord 0x8018#16 = .error .illegal8xyn) ∧
    (legalWord 0x9121#16 = false ∧ decodeWord 0x9121#16 = .error .illegal9xyn) ∧
    (legalWord 0xE49F#16 = false ∧ decodeWord 0xE49F#16 = .error .illegalExkk) ∧
    (legalWord 0xF166#16 = false ∧ decodeWord 0xF166#16 = .error .illegalFxkk) ∧
    decode [0x00#8] = .error .tooShort ∧ decode [] = .error .tooShort := by decide

/-- The legal neighbours of those words pass the check. -/
theorem test_well_formed_words_pass :
    ([0x00E0#16, 0x5120#16, 0x8017#16, 0x801E#16, 0x9120#16, 0xE49E#16, 0xE0A1#16, 0xF165#16].all legalWord) = true := by
  decide

/-- Every term of `Instr` is well formed: the operand types have the widths of R94. -/
theorem test_well_formed_by_type (i : Instr) : i.wellFormed = true := wellFormed_all i

/-- 41_control_flow.md: words written out bit by bit from 30_encoding.md R96. -/
theorem test_decode_control_flow :
    decodeWord 0b0000_0000_1110_1110#16 = .ok .ret ∧
    decodeWord 0b0001_0010_0011_0100#16 = .ok (.jp 0x234#12) ∧
    decodeWord 0b0010_0101_0110_0111#16 = .ok (.call 0x567#12) ∧
    decodeWord 0b0011_1010_0100_0010#16 = .ok (.seImm 0xA#4 0x42#8) ∧
    decodeWord 0b0100_1011_0100_0011#16 = .ok (.sneImm 0xB#4 0x43#8) ∧
    decodeWord 0b0101_0001_0010_0000#16 = .ok (.seReg 0x1#4 0x2#4) ∧
    decodeWord 0b1001_0011_0100_0000#16 = .ok (.sneReg 0x3#4 0x4#4) ∧
    decodeWord 0b1011_1000_1001_1010#16 = .ok (.jpV0 0x89A#12) := ⟨rfl, rfl, rfl, rfl, rfl, rfl, rfl, rfl⟩

/-- 42_load_alu.md; the `y` of 8xy6 and 8xyE is ignored (R97). -/
theorem test_decode_load_alu :
    decodeWord 0b0110_1100_1101_1110#16 = .ok (.ldImm 0xC#4 0xDE#8) ∧
    decodeWord 0b0111_1111_0000_0001#16 = .ok (.addImm 0xF#4 0x01#8) ∧
    decodeWord 0b1000_0001_0010_0000#16 = .ok (.ldReg 0x1#4 0x2#4) ∧
    decodeWord 0b1000_0001_0010_0001#16 = .ok (.orReg 0x1#4 0x2#4) ∧
    decodeWord 0b1000_0001_0010_0010#16 = .ok (.andReg 0x1#4 0x2#4) ∧
    decodeWord 0b1000_0001_0010_0011#16 = .ok (.xorReg 0x1#4 0x2#4) ∧
    decodeWord 0b1000_0001_0010_0100#16 = .ok (.addReg 0x1#4 0x2#4) ∧
    decodeWord 0b1000_0001_0010_0101#16 = .ok (.subReg 0x1#4 0x2#4) ∧
    decodeWord 0b1000_0001_1010_0110#16 = .ok (.shr 0x1#4) ∧
    decodeWord 0b1000_0001_0010_0111#16 = .ok (.subnReg 0x1#4 0x2#4) ∧
    decodeWord 0b1000_0001_1010_1110#16 = .ok (.shl 0x1#4) ∧
    decodeWord 0b1100_0011_0000_1111#16 = .ok (.rnd 0x3#4 0x0F#8) :=
  ⟨rfl, rfl, rfl, rfl, rfl, rfl, rfl, rfl, rfl, rfl, rfl, rfl⟩

/-- 43_index_memory.md. -/
theorem test_decode_index_memory :
    decodeWord 0b1010_0000_0101_0000#16 = .ok (.ldI 0x050#12) ∧
    decodeWord 0b1111_0010_0001_1110#16 = .ok (.addI 0x2#4) ∧
    decodeWord 0b1111_1010_0010_1001#16 = .ok (.ldF 0xA#4) ∧
    decodeWord 0b1111_0010_0011_0011#16 = .ok (.ldB 0x2#4) ∧
    decodeWord 0b1111_0001_0101_0101#16 = .ok (.ldMemVx 0x1#4) ∧
    decodeWord 0b1111_0011_0110_0101#16 = .ok (.ldVxMem 0x3#4) := ⟨rfl, rfl, rfl, rfl, rfl, rfl⟩

/-- 44_display.md. -/
theorem test_decode_display :
    decodeWord 0b0000_0000_1110_0000#16 = .ok .cls ∧
    decodeWord 0b1101_0001_0010_1111#16 = .ok (.drw 0x1#4 0x2#4 0xF#4) := ⟨rfl, rfl⟩

/-- 45_keypad_timers.md. -/
theorem test_decode_keypad_timers :
    decodeWord 0b1110_0100_1001_1110#16 = .ok (.skp 0x4#4) ∧
    decodeWord 0b1110_0100_1010_0001#16 = .ok (.sknp 0x4#4) ∧
    decodeWord 0b1111_0100_0000_0111#16 = .ok (.ldVxDt 0x4#4) ∧
    decodeWord 0b1111_0011_0000_1010#16 = .ok (.ldVxK 0x3#4) ∧
    decodeWord 0b1111_0010_0001_0101#16 = .ok (.ldDtVx 0x2#4) ∧
    decodeWord 0b1111_0010_0001_1000#16 = .ok (.ldStVx 0x2#4) := ⟨rfl, rfl, rfl, rfl, rfl, rfl⟩

/-- The table's word goes to the decoder high byte first (R90). -/
theorem test_decodeTableWord :
    decodeTableWord 16 0x8125 = some (.subReg 0x1#4 0x2#4) ∧ decodeTableWord 16 0x0000 = none := by decide

/-! ## Control flow -/

/-- V-C1, V-C3. -/
theorem test_ret_pops :
    look (startAt 0x0304#16 0x00EE#16 (fun s => (s.setSp 1).setStack (s.stack.set 0 0x0204#16))) (fun t => (t.pc, t.sp)) =
      some (0x0204#16, 0) ∧
    look (start 0x00EE#16 (fun s => (s.setSp 16).setStack (s.stack.set 15 0x0ABC#16))) (fun t => (t.pc, t.sp)) =
      some (0x0ABC#16, 15) := by decide

/-- V-C2. -/
theorem test_ret_underflow :
    lookFault (start 0x00EE#16 id) = some (true, 0x01FE#16, .stackUnderflow, true, 0x00EE#16, 0x0200#16) := by decide

/-- V-C4, and the address of the fetch that follows. -/
theorem test_jp_next_fetch :
    look (startAt 0x020A#16 0x1202#16 id) (fun t => (t.pc, t.fetchAddr)) = some (0x0202#16, 0x0204#16) := by decide

/-- V-C6, V-C7. -/
theorem test_call_pushes :
    look (startAt 0x0202#16 0x2300#16 id) (fun t => (t.stackAt 0, t.sp, t.pc)) = some (0x0202#16, 1, 0x0300#16) ∧
    look (start 0x2300#16 (·.setSp 15)) (fun t => (t.stackAt 15, t.sp, t.pc)) = some (0x0200#16, 16, 0x0300#16) := by
  decide

/-- V-C8. -/
theorem test_call_overflow :
    lookFault (start 0x2300#16 (·.setSp 16)) = some (true, 0x01FE#16, .stackOverflow, true, 0x2300#16, 0x0200#16) := by
  decide

/-- V-C9, V-C10, V-C21. -/
theorem test_seImm :
    look (start 0x3A42#16 (·.setReg 0xA#4 0x42#8)) State.pc = some 0x0202#16 ∧
    look (start 0x3A42#16 (·.setReg 0xA#4 0x43#8)) State.pc = some 0x0200#16 ∧
    look (startAt 0x0FFE#16 0x3000#16 id) State.pc = some 0x1000#16 := by decide

/-- V-C11, V-C12. -/
theorem test_sneImm :
    look (start 0x4A42#16 (·.setReg 0xA#4 0x42#8)) State.pc = some 0x0200#16 ∧
    look (start 0x4A42#16 (·.setReg 0xA#4 0x43#8)) State.pc = some 0x0202#16 := by decide

/-- V-C13, V-C14, V-C15. -/
theorem test_seReg :
    look (start 0x5120#16 (fun s => (s.setReg 1#4 7#8).setReg 2#4 7#8)) State.pc = some 0x0202#16 ∧
    look (start 0x5120#16 (fun s => (s.setReg 1#4 7#8).setReg 2#4 8#8)) State.pc = some 0x0200#16 ∧
    look (start 0x5330#16 (·.setReg 3#4 0x9C#8)) State.pc = some 0x0202#16 := by decide

/-- V-C16, V-C17, V-C18. -/
theorem test_sneReg :
    look (start 0x9120#16 (fun s => (s.setReg 1#4 7#8).setReg 2#4 8#8)) State.pc = some 0x0202#16 ∧
    look (start 0x9120#16 (fun s => (s.setReg 1#4 7#8).setReg 2#4 7#8)) State.pc = some 0x0200#16 ∧
    look (start 0x9330#16 (·.setReg 3#4 0x9C#8)) State.pc = some 0x0200#16 := by decide

/-- V-C19, V-C20. -/
theorem test_jpV0 :
    look (startAt 0x0220#16 0xB300#16 (·.setReg 0#4 4#8)) (fun t => (t.pc, t.fetchAddr)) = some (0x0304#16, 0x0306#16) ∧
    look (start 0xBFFF#16 (·.setReg 0#4 0xFF#8)) State.pc = some 0x10FE#16 := by decide

/-! ## Load and arithmetic -/

/-- V-A1, V-A2. -/
theorem test_ldImm :
    look (start 0x6A03#16 id) (·.reg 0xA#4) = some 0x03#8 ∧ look (start 0x6FFF#16 id) (·.reg vf) = some 0xFF#8 := by decide

/-- V-A3, V-A4, V-A6. -/
theorem test_addImm_writes_no_flag :
    lookFlag (start 0x70FF#16 (·.setReg 0#4 5#8)) 0#4 = some (0x04#8, 0x00#8) ∧
    lookFlag (start 0x7002#16 (·.setReg 0#4 0xFF#8)) 0#4 = some (0x01#8, 0x00#8) ∧
    look (start 0x7F01#16 (·.setReg vf 0xFF#8)) (·.reg vf) = some 0x00#8 := by decide

/-- V-A7. -/
theorem test_ldReg : look (start 0x8120#16 (·.setReg 2#4 0x7B#8)) (·.reg 1#4) = some 0x7B#8 := by decide

/-- V-A8. -/
theorem test_orReg :
    lookFlag (start 0x8011#16 (fun s => ((s.setReg 0#4 0xF0#8).setReg 1#4 0x0F#8).setReg vf 0x55#8)) 0#4 =
      some (0xFF#8, 0x55#8) := by decide

/-- V-A9. -/
theorem test_andReg :
    look (start 0x8012#16 (fun s => (s.setReg 0#4 0xF3#8).setReg 1#4 0x3C#8)) (·.reg 0#4) = some 0x30#8 := by decide

/-- V-A10, V-A11. -/
theorem test_xorReg :
    look (start 0x8013#16 (fun s => (s.setReg 0#4 0xFF#8).setReg 1#4 0x0F#8)) (·.reg 0#4) = some 0xF0#8 ∧
    look (start 0x8003#16 (·.setReg 0#4 0xAB#8)) (·.reg 0#4) = some 0x00#8 := by decide

/-- V-A13, V-A14, V-A15, V-A18. -/
theorem test_addReg_carry :
    lookFlag (start 0x8014#16 (fun s => (s.setReg 0#4 0xFF#8).setReg vf 1#8)) 0#4 = some (0xFF#8, 0x00#8) ∧
    lookFlag (start 0x8014#16 (fun s => (s.setReg 0#4 0xFF#8).setReg 1#4 1#8)) 0#4 = some (0x00#8, 0x01#8) ∧
    lookFlag (start 0x8004#16 (·.setReg 0#4 0x90#8)) 0#4 = some (0x20#8, 0x01#8) ∧
    lookFlag (start 0x80F4#16 (fun s => (s.setReg 0#4 0x10#8).setReg vf 1#8)) 0#4 = some (0x11#8, 0x00#8) := by decide

/-- V-A16, V-A17: with `x = 0xF` the flag remains. -/
theorem test_addReg_into_vf :
    look (start 0x8F14#16 (fun s => (s.setReg vf 0xF0#8).setReg 1#4 0x20#8)) (·.reg vf) = some 0x01#8 ∧
    look (start 0x8F14#16 (fun s => (s.setReg vf 0x10#8).setReg 1#4 0x20#8)) (·.reg vf) = some 0x00#8 := by decide

/-- V-A19, V-A20, V-A21. -/
theorem test_subReg_borrow :
    lookFlag (start 0x8015#16 (fun s => (s.setReg 0#4 1#8).setReg 1#4 2#8)) 0#4 = some (0xFF#8, 0x00#8) ∧
    lookFlag (start 0x8015#16 (fun s => (s.setReg 0#4 5#8).setReg 1#4 5#8)) 0#4 = some (0x00#8, 0x01#8) ∧
    lookFlag (start 0x8015#16 (fun s => (s.setReg 0#4 9#8).setReg 1#4 4#8)) 0#4 = some (0x05#8, 0x01#8) := by decide

/-- V-A22, V-A23, V-A25. -/
theorem test_subReg_into_vf :
    look (start 0x8F15#16 (fun s => (s.setReg vf 9#8).setReg 1#4 4#8)) (·.reg vf) = some 0x01#8 ∧
    look (start 0x8F15#16 (fun s => (s.setReg vf 1#8).setReg 1#4 4#8)) (·.reg vf) = some 0x00#8 ∧
    look (start 0x8FF5#16 (·.setReg vf 0x77#8)) (·.reg vf) = some 0x01#8 := by decide

/-- V-A26, V-A27, V-A28. -/
theorem test_shr :
    lookFlag (start 0x8016#16 (·.setReg 0#4 0x81#8)) 0#4 = some (0x40#8, 0x01#8) ∧
    lookFlag (start 0x80A6#16 (fun s => ((s.setReg 0#4 4#8).setReg 0xA#4 0xFF#8).setReg vf 1#8)) 0#4 =
      some (0x02#8, 0x00#8) ∧
    look (start 0x8F06#16 (·.setReg vf 7#8)) (·.reg vf) = some 0x03#8 := by decide

/-- V-A31, V-A32, V-A33, V-A34. -/
theorem test_subnReg :
    lookFlag (start 0x8127#16 (fun s => (s.setReg 1#4 2#8).setReg 2#4 3#8)) 1#4 = some (0x01#8, 0x01#8) ∧
    lookFlag (start 0x8127#16 (fun s => (s.setReg 1#4 3#8).setReg 2#4 2#8)) 1#4 = some (0xFF#8, 0x00#8) ∧
    lookFlag (start 0x8127#16 (fun s => (s.setReg 1#4 3#8).setReg 2#4 3#8)) 1#4 = some (0x00#8, 0x01#8) ∧
    look (start 0x8F17#16 (fun s => (s.setReg vf 3#8).setReg 1#4 2#8)) (·.reg vf) = some 0x00#8 := by decide

/-- V-A35, V-A36, V-A37. -/
theorem test_shl :
    lookFlag (start 0x830E#16 (·.setReg 3#4 0x81#8)) 3#4 = some (0x02#8, 0x01#8) ∧
    lookFlag (start 0x830E#16 (fun s => (s.setReg 3#4 0x41#8).setReg vf 1#8)) 3#4 = some (0x82#8, 0x00#8) ∧
    look (start 0x8F0E#16 (·.setReg vf 0x81#8)) (·.reg vf) = some 0x02#8 := by decide

/-- V-A39, V-A41: with the random byte given. -/
theorem test_rnd_masks :
    (State.reset.loadRandom 3#4 0x0F#8 0xA7#8).reg 3#4 = 0x07#8 ∧
    (State.reset.loadRandom 3#4 0xFF#8 0x5A#8).reg 3#4 = 0x5A#8 := by decide

/-- V-A40: under a mask of 0 the random byte does not show. -/
theorem test_rnd_zero_mask (s : State) : ∃ t, exec (.rnd 3#4 0x00#8) s = .next t ∧ t.reg 3#4 = 0x00#8 := by
  refine ⟨_, rfl, ?_⟩
  simp [State.loadRandom]

/-! ## Index and memory -/

/-- V-M2. -/
theorem test_ldI : look (start 0xAFFF#16 id) State.index = some 0x0FFF#16 := by decide

/-- V-M4, V-M5. -/
theorem test_addI :
    look (start 0xF21E#16 (fun s => (s.setIndex 0x0FFF#16).setReg 2#4 1#8)) (fun t => (t.index, t.reg vf)) =
      some (0x1000#16, 0x00#8) ∧
    look (start 0xF21E#16 (fun s => (s.setIndex 0xFFFF#16).setReg 2#4 2#8)) State.index = some 0x0001#16 := by decide

/-- V-M6, V-M9, V-M10. -/
theorem test_ldF :
    look (start 0xFA29#16 (·.setReg 0xA#4 0x03#8)) State.index = some 0x005F#16 ∧
    look (start 0xFA29#16 (·.setReg 0xA#4 0x10#8)) State.index = some 0x00A0#16 ∧
    look (start 0xFA29#16 (·.setReg 0xA#4 0xFF#8)) State.index = some 0x054B#16 := by decide

/-- V-M11, V-M16. -/
theorem test_ldB_digits :
    look (start 0xF233#16 (fun s => (s.setIndex 0x0300#16).setReg 2#4 0x7B#8))
      (fun t => [t.readByte 0x300, t.readByte 0x301, t.readByte 0x302]) = some [0x01#8, 0x02#8, 0x03#8] ∧
    look (start 0xF233#16 (fun s => (s.setIndex 0x0FFD#16).setReg 2#4 0x2F#8))
      (fun t => [t.readByte 0xFFD, t.readByte 0xFFE, t.readByte 0xFFF]) = some [0x00#8, 0x04#8, 0x07#8] := by decide

/-- V-M17, V-M19. -/
theorem test_ldB_out_of_range :
    lookFault (start 0xF233#16 (fun s => (s.setIndex 0x0FFE#16).setReg 2#4 0x2F#8)) =
      some (true, 0x01FE#16, .outOfRangeAccess, true, 0xF233#16, 0x1000#16) ∧
    lookFault (start 0xF233#16 (·.setIndex 0xFFFF#16)) =
      some (true, 0x01FE#16, .outOfRangeAccess, true, 0xF233#16, 0xFFFF#16) := ⟨by decide, by decide⟩

/-- V-M20. -/
theorem test_ldMemVx_stores :
    look (start 0xF155#16 (fun s => (((s.setIndex 0x0400#16).setReg 0#4 0xAA#8).setReg 1#4 0xBB#8).setReg 2#4 0xCC#8))
      (fun t => ([t.readByte 0x400, t.readByte 0x401, t.readByte 0x402], t.index)) =
      some ([0xAA#8, 0xBB#8, 0x00#8], 0x0400#16) := by decide

/-- V-M22, V-M24: nothing is stored by a faulting Fx55; the font is not protected. -/
theorem test_ldMemVx_edges :
    look (start 0xF155#16 (fun s => ((s.setIndex 0x0FFF#16).setReg 0#4 0x77#8).setReg 1#4 0x88#8))
      (fun t => (t.fault.addr, t.readByte 0xFFF)) = some (0x1000#16, 0x00#8) ∧
    look (start 0xF055#16 (fun s => (s.setIndex 0x0050#16).setReg 0#4 0x12#8)) (·.readByte 0x050) = some 0x12#8 := by
  decide

/-- V-M25. -/
theorem test_ldVxMem_loads :
    look (start 0xF265#16 (fun s =>
      ((s.setIndex 0x0300#16).setMem (s.mem.writeList 0x300 [0x01#8, 0x02#8, 0x03#8, 0x04#8])).setReg 3#4 0x99#8))
      (fun t => ([t.reg 0#4, t.reg 1#4, t.reg 2#4, t.reg 3#4], t.index)) =
      some ([0x01#8, 0x02#8, 0x03#8, 0x99#8], 0x0300#16) := by decide

/-- V-M26, V-M28. -/
theorem test_ldVxMem_edges :
    look (start 0xF065#16 (·.setIndex 0x0050#16)) (·.reg 0#4) = some 0xF0#8 ∧
    lookFault (start 0xF365#16 (·.setIndex 0x0FFD#16)) =
      some (true, 0x01FE#16, .outOfRangeAccess, true, 0xF365#16, 0x1000#16) := by decide

/-! ## Display -/

/-- V-D1. -/
theorem test_cls :
    look (start 0x00E0#16 (fun s => light 0 0 (light 63 31 (light 10 5 (s.setReg vf 1#8)))))
      (fun t => (lit t, t.reg vf)) = some ([], 0x01#8) := by decide

/-- V-D10: two rows, one collision. -/
theorem test_drw_xors_and_collides :
    look (start 0xD012#16 (fun s => light 4 2 (light 20 20
      ((((s.setIndex 0x0300#16).setMem (s.mem.writeList 0x300 [0xF0#8, 0x0F#8])).setReg 0#4 4#8).setReg 1#4 2#8))))
      (fun t => (lit t, t.reg vf)) =
      some ([(5, 2), (6, 2), (7, 2), (8, 3), (9, 3), (10, 3), (11, 3), (20, 20)], 0x01#8) := by decide

/-- V-D3, V-D6, V-D11: clipped at the edges, the origin wrapped, VF read before it is written. -/
theorem test_drw_clips_and_wraps_the_origin :
    look (start 0xD015#16 (fun s => ((s.setIndex 0x005F#16).setReg 0#4 0x3E#8).setReg 1#4 0x1E#8))
      (fun t => (lit t, t.reg vf)) = some ([(62, 30), (63, 30)], 0x00#8) ∧
    look (start 0xD011#16 (fun s => (((s.setIndex 0x0300#16).setMem (s.mem.writeList 0x300 [0x81#8])).setReg 0#4 0xFF#8).setReg
      1#4 0xFF#8)) (fun t => (lit t, t.reg vf)) = some ([(63, 31)], 0x00#8) ∧
    look (start 0xDF11#16 (fun s => (((s.setIndex 0x0300#16).setMem (s.mem.writeList 0x300 [0x80#8])).setReg vf 5#8).setReg
      1#4 3#8)) (fun t => (lit t, t.reg vf)) = some ([(5, 3)], 0x00#8) := by decide

/-! ## Keypad and timers -/

/-- V-K1, V-K2, V-K7. -/
theorem test_skp :
    look (startAt 0x0230#16 0xE49E#16 (fun s => (s.setReg 4#4 7#8).setKeys 0x0080#16)) State.pc = some 0x0232#16 ∧
    look (startAt 0x0230#16 0xE49E#16 (fun s => (s.setReg 4#4 7#8).setKeys 0xFF7F#16)) State.pc = some 0x0230#16 ∧
    look (start 0xE49E#16 (fun s => (s.setReg 4#4 0xF#8).setKeys 0x8000#16)) State.pc = some 0x0202#16 := by decide

/-- V-K5. -/
theorem test_skp_index_out_of_range :
    lookFault (start 0xE49E#16 (fun s => (s.setReg 4#4 0x10#8).setKeys 0xFFFF#16)) =
      some (true, 0x01FE#16, .keyIndexOutOfRange, true, 0xE49E#16, 0x0010#16) := by decide

/-- V-K3, V-K4, V-K6. -/
theorem test_sknp :
    look (startAt 0x0230#16 0xE4A1#16 (·.setReg 4#4 7#8)) State.pc = some 0x0232#16 ∧
    look (startAt 0x0230#16 0xE4A1#16 (fun s => (s.setReg 4#4 7#8).setKeys 0x0080#16)) State.pc = some 0x0230#16 ∧
    lookFault (start 0xE4A1#16 (·.setReg 4#4 0xFF#8)) =
      some (true, 0x01FE#16, .keyIndexOutOfRange, true, 0xE4A1#16, 0x00FF#16) := by decide

/-- V-K3q, V-K4q: ExA1 under the quirk. -/
theorem test_sknp_quirk :
    look (startAt 0x0230#16 0xE4A1#16 (fun s => (s.setExa1SourceQuirk true).setReg 4#4 7#8)) State.pc = some 0x0230#16 ∧
    look (startAt 0x0230#16 0xE4A1#16 (fun s => ((s.setExa1SourceQuirk true).setReg 4#4 7#8).setKeys 0x0080#16)) State.pc =
      some 0x0232#16 := by decide

/-- V-K10. -/
theorem test_ldVxK_stalls :
    look (startAt 0x0210#16 0xF30A#16 (fun s => ((s.setReg 3#4 0x55#8).setDt 3#8).setSt 3#8))
      (fun t => (t.pc, t.reg 3#4, t.dt, t.st)) = some (0x020E#16, 0x55#8, 0x02#8, 0x02#8) := by decide

/-- V-K11, V-K12. -/
theorem test_ldVxK_takes_the_least_key :
    look (startAt 0x0210#16 0xF30A#16 (·.setKeys 0x0280#16)) (fun t => (t.reg 3#4, t.pc)) = some (0x07#8, 0x0210#16) ∧
    look (start 0xF30A#16 (·.setKeys 0x8000#16)) (fun t => (t.reg 3#4, t.pc)) = some (0x0F#8, 0x0200#16) := by decide

/-- V-T1, V-T2. -/
theorem test_ldVxDt :
    look (start 0xF407#16 (·.setDt 2#8)) (fun t => (t.reg 4#4, t.dt)) = some (0x02#8, 0x01#8) ∧
    look (start 0xF407#16 (·.setReg 4#4 9#8)) (fun t => (t.reg 4#4, t.dt)) = some (0x00#8, 0x00#8) := by decide

/-- V-T4, V-T6. -/
theorem test_ldDtVx :
    look (start 0xF215#16 (·.setReg 2#4 3#8)) State.dt = some 0x02#8 ∧
    look (start 0xF215#16 (·.setDt 9#8)) State.dt = some 0x00#8 := by decide

/-- V-T9, V-T10, V-T11. -/
theorem test_ldStVx :
    look (start 0xF218#16 (·.setReg 2#4 2#8)) State.st = some 0x01#8 ∧
    look (start 0xF218#16 (·.setReg 2#4 1#8)) State.st = some 0x01#8 ∧
    look (start 0xF218#16 (·.setSt 9#8)) State.st = some 0x00#8 := by decide

/-! ## The step -/

/-- V-T12, V-T13: the tick of a step that touches no timer. -/
theorem test_tick :
    look (start 0x6000#16 (fun s => (s.setDt 1#8).setSt 1#8)) (fun t => (t.dt, t.st)) = some (0x00#8, 0x01#8) ∧
    look (start 0x6000#16 (fun s => (s.setDt 5#8).setSt 5#8)) (fun t => (t.dt, t.st)) = some (0x04#8, 0x04#8) := by decide

/-- V-T15: a faulting step does not tick. -/
theorem test_fault_does_not_tick :
    look (start 0x0000#16 (fun s => (s.setDt 5#8).setSt 5#8)) (fun t => (t.halted, t.opcode, t.dt, t.st)) =
      some (true, 0x0000#16, 0x05#8, 0x05#8) := by decide

/-- V-C5, V-C5b, V-C5c, V-C20: the fetch after the jump, at the edges of memory. -/
theorem test_fetch_edges :
    look (State.reset.setPc 0x0FFE#16) (fun t => (t.fault.kind, t.fault.opcodeValid, t.fault.addr)) =
      some (.outOfRangeAccess, false, 0x1000#16) ∧
    look (State.reset.setPc 0x0FFD#16) (fun t => (t.fault.kind, t.fault.opcodeValid, t.fault.addr)) =
      some (.outOfRangeAccess, false, 0x1000#16) ∧
    look (State.reset.setPc 0x10FE#16) (fun t => (t.fault.kind, t.fault.opcodeValid, t.fault.addr)) =
      some (.outOfRangeAccess, false, 0x1100#16) ∧
    lookFault (State.reset.setPc 0x0FFC#16) =
      some (true, 0x0FFC#16, .decodeFailure, true, 0x0000#16, 0x0FFE#16) := by decide

/-- V-C27: an odd fetch address is legal. -/
theorem test_odd_fetch :
    look (startAt 0x0201#16 0x6A03#16 id) (fun t => (t.reg 0xA#4, t.pc)) = some (0x03#8, 0x0201#16) := by decide

/-- R130: a halted unit reports its record. -/
theorem test_halted_step :
    step (State.reset.enterFault (decodeFault 0x0000#16 0x0200#16)) =
      .fault (.halted { kind := .decodeFailure, opcodeValid := true, opcode := 0x0000#16, addr := 0x0200#16 }) := rfl

/-- R36, R42: another `FONT` stands at 0x050 to 0x09F after reset and nowhere else. -/
theorem test_reset_with_another_font :
    [0x04F, 0x050, 0x09F, 0x0A0].map
      (State.resetWith { font := Vector.replicate 80 0x55#8, exa1SourceQuirk := true }).readByte =
      [0x00#8, 0x55#8, 0x55#8, 0x00#8] := by decide

/-- R306: an image lies at 0x200 and on; its first word is what the first step runs. -/
theorem test_load_program :
    (State.reset.loadProgram [0x6A#8, 0x03#8]).bind (fun s => look s (·.reg 0xA#4)) = some 0x03#8 := by decide

/-- Program P3 of 95_test_vectors.md, steps 11 and 12: the host presses keys 7 and 9 between two steps of Fx0A. -/
theorem test_run_keys :
    (match runKeys [0x0000#16, 0x0280#16] (startAt 0x0210#16 0xF30A#16 id) with
      | .next t => some (t.reg 3#4, t.pc)
      | .fault _ => none
      | .refused _ => none) = some (0x07#8, 0x0210#16) := by decide

/-! ## Witnesses: states and operands that meet the hypotheses of the statements, one for each clause -/

/-- `s` runs the word's instruction. -/
theorem runs_start : Runs (start 0x1234#16 id) (.jp 0x234#12) := ⟨rfl, by decide, rfl⟩

theorem witness_EncodeReturnsTheDecodedWord :
    (decodeWord 0x3A42#16 = .ok (.seImm 0xA#4 0x42#8) ∧ ∀ x, Instr.seImm 0xA#4 0x42#8 ≠ .shr x ∧ Instr.seImm 0xA#4 0x42#8 ≠ .shl x) ∧
    (decodeWord 0x81A6#16 = .ok (.shr 1#4) ∧ decodeWord 0x81AE#16 = .ok (.shl 1#4)) :=
  ⟨⟨rfl, by simp⟩, rfl, rfl⟩

theorem witness_DecoderSelectsTheOneMatchingRow :
    (⟨"JP_nnn", 0x1000#16, 0xF000#16⟩ : Row) ∈ rows ∧
    (⟨"JP_nnn", 0x1000#16, 0xF000#16⟩ : Row).selects 0x1FFF#16 = true ∧ decodeWord 0x1FFF#16 = .ok (.jp 0xFFF#12) := by
  decide

/-- One word of each class of R100, and a word of none. -/
theorem witness_IllegalWordsAreTheSixClasses :
    (fieldT 0x0123#16 = 0#4 ∧ fieldNNN 0x0123#16 ≠ 0x0E0#12 ∧ fieldNNN 0x0123#16 ≠ 0x0EE#12) ∧
    (fieldT 0x5121#16 = 5#4 ∧ fieldN 0x5121#16 ≠ 0#4) ∧ (fieldT 0x801F#16 = 8#4 ∧ fieldN 0x801F#16 = 0xF#4) ∧
    (fieldT 0x9121#16 = 9#4 ∧ fieldN 0x9121#16 ≠ 0#4) ∧ (fieldT 0xE0A2#16 = 0xE#4 ∧ fieldKK 0xE0A2#16 = 0xA2#8) ∧
    (fieldT 0xF000#16 = 0xF#4 ∧ fieldKK 0xF000#16 = 0x00#8) ∧ decodeWord 0xF065#16 = .ok (.ldVxMem 0#4) := by decide

theorem witness_ShiftsIgnoreTheYField : (0xA#4 : Reg) ≠ 0x1#4 ∧ (0xA#4 : Reg) ≠ vf := by decide

/-- `n = 0` with any `I`; the last place in memory; a collision; no collision. -/
theorem witness_DrawXorsTheSpriteAndReportsCollision :
    (0#4 : Nibble) = 0#4 ∧ (State.reset.setIndex 0x0FFF#16).index.toNat + (1#4 : Nibble).toNat ≤ 0x1000 ∧
    ((light 0 0 (State.reset.setIndex 0x0050#16)).spriteAt 1#4 2#4 5#4 0 0 = true ∧
      (light 0 0 (State.reset.setIndex 0x0050#16)).pixel 0 0 = true) ∧
    (∀ py px, State.reset.spriteAt 1#4 2#4 0#4 py px = true → State.reset.pixel py px = false) := by
  refine ⟨rfl, by decide, by decide, fun py px h => ?_⟩
  have := State.pixel_blank State.reset py px
  exact this

/-- The first byte outside, and only the last of fifteen. -/
theorem witness_DrawBeyondMemoryFaults :
    ((1#4 : Nibble) ≠ 0#4 ∧ (State.reset.setIndex 0x1000#16).index.toNat + (1#4 : Nibble).toNat > 0x1000) ∧
    ((15#4 : Nibble) ≠ 0#4 ∧ (State.reset.setIndex 0x0FF2#16).index.toNat + (15#4 : Nibble).toNat > 0x1000) := by decide

theorem witness_DrawingTwiceRestoresTheFramebuffer :
    (0#4 : Reg) ≠ vf ∧ (1#4 : Reg) ≠ vf ∧ (State.reset.setIndex 0x0FF1#16).index.toNat + (15#4 : Nibble).toNat ≤ 0x1000 := by
  decide

theorem witness_CallPushesItsOwnAddress :
    (State.reset.setSp 15).sp.val < 16 ∧ (State.reset.setSp 16).sp.val = 16 := by decide

theorem witness_ReturnPopsTheLastEntry :
    (State.reset.setSp 1).sp.val ≠ 0 ∧ (State.reset.setSp 16).sp.val ≠ 0 ∧ State.reset.sp.val = 0 := by decide

theorem witness_ImmediateSkipsAddTwo :
    Runs (start 0x3A42#16 id) (.seImm 0xA#4 0x42#8) ∧ Runs (start 0x4A42#16 id) (.sneImm 0xA#4 0x42#8) :=
  ⟨⟨rfl, by decide, rfl⟩, rfl, by decide, rfl⟩

theorem witness_RegisterSkipsAddTwo :
    (1#4 : Nibble) ≠ 0#4 ∧ Runs (start 0x5120#16 id) (.seReg 1#4 2#4) ∧ Runs (start 0x9120#16 id) (.sneReg 1#4 2#4) :=
  ⟨by decide, ⟨rfl, by decide, rfl⟩, rfl, by decide, rfl⟩

/-- A sum of 256 and a sum of 255; a destination other than VF (also for 8xy5, 8xy7 and the shifts). -/
theorem witness_AddSetsTheCarry :
    (0#4 : Reg) ≠ vf ∧
    (((State.reset.setReg 0#4 0xFF#8).setReg 1#4 1#8).reg 0#4).toNat +
      (((State.reset.setReg 0#4 0xFF#8).setReg 1#4 1#8).reg 1#4).toNat > 255 ∧
    ((State.reset.setReg 0#4 0xFF#8).reg 0#4).toNat + ((State.reset.setReg 0#4 0xFF#8).reg 1#4).toNat ≤ 255 := by decide

theorem witness_SubtractionsSetNotBorrow : (0#4 : Reg) ≠ vf := by decide

theorem witness_ShiftsCaptureTheBitShiftedOut : (14#4 : Reg) ≠ vf := by decide

theorem witness_RandomIsMasked : (0x0F#8 : Byte).getLsbD 4 = false := by decide

/-- The last place that fits and the first that does not. -/
theorem witness_DecimalDigitsAreStored :
    ((State.reset.setIndex 0x0FFD#16).mem.wf = true ∧ (State.reset.setIndex 0x0FFD#16).index.toNat + 2 ≤ 0xFFF) ∧
    (State.reset.setIndex 0x0FFE#16).index.toNat + 2 > 0xFFF := by decide

theorem witness_RegistersAreStored :
    ((State.reset.setIndex 0x0FF0#16).mem.wf = true ∧ (State.reset.setIndex 0x0FF0#16).index.toNat + (15#4 : Reg).toNat ≤ 0xFFF) ∧
    (State.reset.setIndex 0x0FF1#16).index.toNat + (15#4 : Reg).toNat > 0xFFF := by decide

theorem witness_RegistersAreLoaded :
    (State.reset.setIndex 0x0FFF#16).index.toNat + (0#4 : Reg).toNat ≤ 0xFFF ∧
    (State.reset.setIndex 0x0FFF#16).index.toNat + (1#4 : Reg).toNat > 0xFFF := by decide

theorem witness_SkipIfPressed :
    (Runs (start 0xE49E#16 (·.setReg 4#4 15#8)) (.skp 4#4) ∧ ((start 0xE49E#16 (·.setReg 4#4 15#8)).reg 4#4).toNat ≤ 15) ∧
    ((State.reset.setReg 4#4 16#8).reg 4#4).toNat > 15 := ⟨⟨⟨rfl, by decide, rfl⟩, by decide⟩, by decide⟩

/-- Each value of the parameter, the last index that is a key, and one that is not. -/
theorem witness_SkipIfNotPressed :
    (State.reset.exa1SourceQuirk = false ∧ ((State.reset.setReg 4#4 15#8).reg 4#4).toNat ≤ 15) ∧
    (((State.reset.setExa1SourceQuirk true).setReg 4#4 15#8).exa1SourceQuirk = true ∧
      (((State.reset.setExa1SourceQuirk true).setReg 4#4 15#8).reg 4#4).toNat ≤ 15) ∧
    (Runs (start 0xE4A1#16 (·.setReg 4#4 15#8)) (.sknp 4#4) ∧ ((start 0xE4A1#16 (·.setReg 4#4 15#8)).reg 4#4).toNat ≤ 15) ∧
    ((State.reset.setReg 4#4 16#8).reg 4#4).toNat > 15 := by
  refine ⟨by decide, by decide, ⟨⟨rfl, by decide, rfl⟩, by decide⟩, by decide⟩

/-- Key 15 alone; keys 7 and 9; none. -/
theorem witness_KeyWaitStoresTheLeastKeyOrRewinds :
    ((State.reset.setKeys 0x8000#16).key.getLsbD 15 = true ∧ ∀ j, j < 15 → (State.reset.setKeys 0x8000#16).key.getLsbD j = false) ∧
    ((State.reset.setKeys 0x0280#16).key.getLsbD 7 = true ∧ ∀ j, j < 7 → (State.reset.setKeys 0x0280#16).key.getLsbD j = false) ∧
    State.reset.key = 0#16 := by decide

theorem witness_TimerInstructionsMoveBytes :
    Runs (start 0xF407#16 id) (.ldVxDt 4#4) ∧ Runs (start 0xF415#16 id) (.ldDtVx 4#4) ∧
    Runs (start 0xF418#16 id) (.ldStVx 4#4) :=
  ⟨⟨rfl, by decide, rfl⟩, ⟨rfl, by decide, rfl⟩, rfl, by decide, rfl⟩

/-- At the last address an instruction can be fetched from. -/
theorem witness_StepRunsTheDecodedInstruction :
    (startAt 0x0FFE#16 0x6A03#16 id).halted = false ∧ (startAt 0x0FFE#16 0x6A03#16 id).fetchAddr.toNat + 1 ≤ 0xFFF ∧
    decode ((startAt 0x0FFE#16 0x6A03#16 id).fetchBytes 0xFFE) = .ok (.ldImm 0xA#4 0x03#8, []) ∧
    ∃ t, Completes (startAt 0x0FFE#16 0x6A03#16 id) t := ⟨rfl, by decide, rfl, _, rfl, rfl⟩

theorem witness_UnhaltedStepAnswersNext : State.reset.halted = false := rfl

/-- The first fetch address with a byte outside, and the last without. -/
theorem witness_FetchBeyondMemoryFaults :
    (State.reset.setPc 0x0FFD#16).halted = false ∧ (State.reset.setPc 0x0FFD#16).fetchAddr.toNat + 1 > 0xFFF ∧
    (State.reset.setPc 0x0FFC#16).fetchAddr.toNat ≤ 0xFFE := by decide

theorem witness_IllegalWordFaults :
    (start 0x801F#16 id).halted = false ∧ (start 0x801F#16 id).fetchAddr.toNat + 1 ≤ 0xFFF ∧
    ∀ r ∈ rows, r.selects ((start 0x801F#16 id).wordAt (start 0x801F#16 id).fetchAddr.toNat) = false := by decide

theorem witness_EveryCompletedStepTicks :
    Runs (start 0x1234#16 id) (.jp 0x234#12) ∧
    ∃ t, exec (.jp 0x234#12) (start 0x1234#16 id).latched = .next t ∧ t.halted = false :=
  ⟨runs_start, _, rfl, rfl⟩

theorem witness_KeyWaitStalls : Runs (start 0xF30A#16 id) (.ldVxK 3#4) ∧ (start 0xF30A#16 id).key = 0#16 :=
  ⟨⟨rfl, by decide, rfl⟩, rfl⟩

theorem witness_HaltedStepReportsTheRecordAgain :
    (State.reset.enterFault (decodeFault 0x0000#16 0x0200#16)).halted = true := rfl

theorem witness_RaisedFaultDiscardsTheStep :
    Runs (start 0x00EE#16 id) .ret ∧ ∃ t, exec .ret (start 0x00EE#16 id).latched = .next t ∧ t.halted = true :=
  ⟨⟨rfl, by decide, rfl⟩, _, rfl, rfl⟩

/-- A step that faults, for each kind and for the fetch. -/
theorem witness_FaultsArePrecise :
    (∃ t, Faults State.reset t ∧ t.fault.kind = .decodeFailure) ∧
    (∃ t, Faults (start 0x00EE#16 id) t ∧ t.fault.kind = .stackUnderflow ∧ t.fault.opcodeValid = true) ∧
    (∃ t, Faults (start 0x2300#16 (·.setSp 16)) t ∧ t.fault.kind = .stackOverflow) ∧
    (∃ t, Faults (start 0xF155#16 (·.setIndex 0x0FFF#16)) t ∧ t.fault.kind = .outOfRangeAccess) ∧
    (∃ t, Faults (start 0xE49E#16 (·.setReg 4#4 16#8)) t ∧ t.fault.kind = .keyIndexOutOfRange) ∧
    (∃ t, Faults (State.reset.setPc 0x0FFD#16) t ∧ t.fault.opcodeValid = false) :=
  ⟨⟨_, ⟨rfl, rfl, rfl⟩, rfl⟩, ⟨_, ⟨rfl, rfl, rfl⟩, rfl, rfl⟩, ⟨_, ⟨rfl, rfl, rfl⟩, rfl⟩, ⟨_, ⟨rfl, rfl, rfl⟩, rfl⟩,
    ⟨_, ⟨rfl, rfl, rfl⟩, rfl⟩, ⟨_, ⟨rfl, rfl, rfl⟩, rfl⟩⟩

theorem witness_EveryInstructionLeavesThePcOfTheTable :
    State.reset.halted = false ∧ ∃ t, exec (.jpV0 0x300#12) State.reset = .next t ∧ t.halted = false := ⟨rfl, _, rfl, rfl⟩

/-- A completed step of each of the four transfers. -/
theorem witness_TransfersAreBiasedByTwo :
    (∃ t, Completes (start 0x1234#16 id) t ∧ Runs (start 0x1234#16 id) (.jp 0x234#12)) ∧
    (∃ t, Completes (start 0x2234#16 id) t ∧ Runs (start 0x2234#16 id) (.call 0x234#12)) ∧
    (∃ t, Completes (start 0xB234#16 id) t ∧ Runs (start 0xB234#16 id) (.jpV0 0x234#12)) ∧
    (∃ t, Completes (start 0x00EE#16 (·.setSp 1)) t ∧ Runs (start 0x00EE#16 (·.setSp 1)) .ret) :=
  ⟨⟨_, ⟨rfl, rfl⟩, rfl, by decide, rfl⟩, ⟨_, ⟨rfl, rfl⟩, rfl, by decide, rfl⟩, ⟨_, ⟨rfl, rfl⟩, rfl, by decide, rfl⟩,
    ⟨_, ⟨rfl, rfl⟩, rfl, by decide, rfl⟩⟩

/-- S5 of 95_test_vectors.md: 2300 at 0202, 00EE at 0302. -/
theorem witness_ReturnComesBackAfterTheCall :
    Runs (startAt 0x0202#16 0x2300#16 (fun s => s.storeWord 0x302 0x00EE#16)) (.call 0x300#12) ∧
    (startAt 0x0202#16 0x2300#16 (fun s => s.storeWord 0x302 0x00EE#16)).sp.val < 16 ∧
    ∃ t, Completes (startAt 0x0202#16 0x2300#16 (fun s => s.storeWord 0x302 0x00EE#16)) t ∧ Runs t .ret :=
  ⟨⟨rfl, by decide, rfl⟩, by decide, _, ⟨rfl, rfl⟩, rfl, by decide, rfl⟩

theorem witness_EveryInstructionChangesOnlyItsOwn :
    State.reset.halted = false ∧ (∃ t, exec (.ldMemVx 15#4) State.reset = .next t ∧ t.halted = false) ∧
    ∃ t, exec .ret State.reset = .next t ∧ t.halted = true := ⟨rfl, ⟨_, rfl, rfl⟩, _, rfl, rfl⟩

/-- A step that changes a byte, a pixel, a stack entry or `I`. -/
theorem witness_OnlyTheNamedInstructionsWrite :
    (∃ t, step (start 0xF055#16 (fun s => (s.setIndex 0x0400#16).setReg 0#4 7#8)) = .next t ∧ t.readByte 0x400 = 7#8) ∧
    (∃ t, step (start 0xD005#16 (·.setIndex 0x0050#16)) = .next t ∧ t.pixel 0 0 = true) ∧
    (∃ t, step (start 0x2300#16 id) = .next t ∧ t.stackAt 0 = 0x0200#16) ∧
    (∃ t, step (start 0xA123#16 id) = .next t ∧ t.index = 0x0123#16) :=
  ⟨⟨_, rfl, by decide⟩, ⟨_, rfl, by decide⟩, ⟨_, rfl, by decide⟩, ⟨_, rfl, by decide⟩⟩

/-- `ST` 0 left by a step that found 0 and by one that wrote 0; and 1 kept. -/
theorem witness_SoundTimerNeverCountsToZero :
    (∃ t, step (start 0x6000#16 id) = .next t ∧ t.st = 0x00#8) ∧
    (∃ t, step (start 0xF218#16 (·.setSt 9#8)) = .next t ∧ t.st = 0x00#8) ∧
    (∃ t, step (start 0x6000#16 (·.setSt 1#8)) = .next t ∧ (start 0x6000#16 (·.setSt 1#8)).st = 0x01#8 ∧
      ∀ x, ¬ Runs (start 0x6000#16 (·.setSt 1#8)) (.ldStVx x)) := by
  refine ⟨⟨_, rfl, rfl⟩, ⟨_, rfl, rfl⟩, _, rfl, rfl, fun x h => ?_⟩
  have h' : (Except.ok (.ldImm 0#4 0#8) : Except Reject Instr) = .ok (.ldStVx x) := h.2.2
  cases h'

theorem witness_SoundTimerIsNeverRead :
    (∃ t, exec .cls State.reset = .next t ∧ ∀ x, Instr.cls ≠ .ldStVx x) ∧
    (∃ t, exec (.ldStVx 2#4) State.reset = .next t ∧ ∃ x, Instr.ldStVx 2#4 = .ldStVx x) :=
  ⟨⟨_, rfl, by simp⟩, _, rfl, _, rfl⟩

theorem witness_KeysAreReadByThreeInstructionsOnly :
    Runs (start 0x1234#16 id) (.jp 0x234#12) ∧ (∃ t, step (start 0x1234#16 id) = .next t) ∧
    ∀ x, Instr.jp 0x234#12 ≠ .skp x ∧ Instr.jp 0x234#12 ≠ .sknp x ∧ Instr.jp 0x234#12 ≠ .ldVxK x :=
  ⟨runs_start, ⟨_, rfl⟩, by simp⟩

/-- Fx55 onto the next word, onto its second byte alone (`x = 0`), and Fx33 with its last digit on the first byte. -/
theorem witness_NextFetchSeesTheStore :
    ((start 0xF155#16 (·.setIndex 0x0202#16)).mem.wf = true ∧ Runs (start 0xF155#16 (·.setIndex 0x0202#16)) (.ldMemVx 1#4) ∧
      (start 0xF155#16 (·.setIndex 0x0202#16)).index.toNat + (1#4 : Reg).toNat ≤ 0xFFF) ∧
    ((start 0xF055#16 (·.setIndex 0x0203#16)).mem.wf = true ∧ Runs (start 0xF055#16 (·.setIndex 0x0203#16)) (.ldMemVx 0#4) ∧
      (start 0xF055#16 (·.setIndex 0x0203#16)).index.toNat + (0#4 : Reg).toNat ≤ 0xFFF) ∧
    ((start 0xF233#16 (·.setIndex 0x0200#16)).mem.wf = true ∧ Runs (start 0xF233#16 (·.setIndex 0x0200#16)) (.ldB 2#4) ∧
      (start 0xF233#16 (·.setIndex 0x0200#16)).index.toNat + 2 ≤ 0xFFF) :=
  ⟨⟨by decide, ⟨rfl, by decide, rfl⟩, by decide⟩, ⟨by decide, ⟨rfl, by decide, rfl⟩, by decide⟩,
    by decide, ⟨rfl, by decide, rfl⟩, by decide⟩

/-- The word the next step finds after such a store: 6105 stored over 0000 (R72). -/
theorem test_next_fetch_sees_the_store :
    look (start 0xF155#16 (fun s => ((s.setIndex 0x0202#16).setReg 0#4 0x61#8).setReg 1#4 0x05#8))
      (fun t => t.wordAt t.fetchAddr.toNat) = some 0x6105#16 := by decide

/-- P2 of 95_test_vectors.md: 120A at 020C, run from `pc` = 020A. -/
theorem witness_SelfJumpRepeats :
    Runs (startAt 0x020C#16 0x120A#16 id) (.jp 0x20A#12) ∧
    (startAt 0x020C#16 0x120A#16 id).pc = (0x20A#12 : Addr12).setWidth 16 := ⟨⟨rfl, by decide, rfl⟩, rfl⟩

/-- The first and last font byte, and the bytes next to them. -/
theorem witness_ResetValues :
    (State.resetWith defaultParams = State.resetWith defaultParams ∧ (0 : Nat) < 80 ∧ (79 : Nat) < 80) ∧
    ((0x04F : Nat) ≤ 0xFFF ∧ (0x04F : Nat) < 0x050) ∧ ((0x0A0 : Nat) ≤ 0xFFF ∧ 0x09F < (0x0A0 : Nat)) := by
  refine ⟨⟨rfl, ?_⟩, ?_⟩ <;> decide

/-- The reset state meets every invariant and its step has a next state. -/
theorem witness_invariants :
    State.reset.mem.wf = true ∧ (State.reset.pc.toNat ≤ 0x10FE ∧ ∀ j, (State.reset.stackAt j).toNat ≤ 0xFFE) ∧
    (State.reset.halted = true ↔ State.reset.fault.kind ≠ .noFault) ∧
    (∀ j : Fin 16, j.val < State.reset.sp.val → 2 ≤ (State.reset.stackAt j).toNat) ∧ ∃ t, step State.reset = .next t := by
  refine ⟨rfl, by decide, by decide, by decide, _, rfl⟩

/-- The invariants at their bounds: `pc` at 0x10FE, an entry in use of 0xFFE. -/
theorem witness_invariants_at_bounds :
    ((State.reset.setPc 0x10FE#16).setStack (State.reset.stack.set 0 0x0FFE#16)).pc.toNat ≤ 0x10FE ∧
    ∀ j, (((State.reset.setPc 0x10FE#16).setStack (State.reset.stack.set 0 0x0FFE#16)).stackAt j).toNat ≤ 0xFFE := by
  decide

theorem witness_SamePiecesAreTheSameState :
    State.reset.mem.wf = true ∧ ∀ p : Piece, p.Same State.reset State.reset := by
  refine ⟨rfl, fun p => ?_⟩
  exact OnlyChanges.refl (W := fun _ => False) p id

/-- An image of the largest size, and one a byte larger. -/
theorem witness_LoaderCopiesTheImage :
    State.reset.mem.wf = true ∧ (List.replicate 3584 0x12#8 : List Byte).length ≤ 3584 ∧
    3584 < (List.replicate 3585 0x12#8 : List Byte).length := by
  refine ⟨rfl, Nat.le_of_eq List.length_replicate, ?_⟩
  rw [List.length_replicate]
  omega

end Sys2Proof.Tests
end

/-! PROOFS. The statements of the family 10_state.md. First what a completed execute phase leaves, instruction by
instruction; then what a step to a next state can be; every statement about steps goes through these. -/

namespace Sys2Proof

open Sys2Proof.Machine

/-! ### A completed execute phase, operation by operation -/

section Completed
variable {s t u : State}

/-- The execute phase completes, or it enters a fault whose record has a kind. -/
theorem exec_completed_or_faulted {i : Instr} (h : exec i s = .next t) :
    CompletedAs s t ∨ ∃ r, r.kind ≠ .noFault ∧ t = s.enterFault r := by
  rcases exec_cases i s with ⟨u, e, hu⟩ | ⟨k, a, e, hk⟩
  · cases e.symm.trans h
    exact .inl hu
  · cases e.symm.trans h
    exact .inr ⟨_, fun (e : k = .noFault) => by subst e; exact hk, rfl⟩

theorem exec_completed {i : Instr} (h : exec i s = .next t) (hh : t.halted = false) : CompletedAs s t := by
  rcases exec_completed_or_faulted h with hc | ⟨r, -, rfl⟩
  · exact hc
  · cases hh

/-- A raise does not complete. -/
theorem halted_of_raise {k : FaultKind} {a : Word} (h : raise k a s = .next t) : t.halted = true := by
  cases h
  rfl

theorem inRange_completed {base len : Nat} (h : inRange base len s u = .next t) (hh : t.halted = false) : t = u := by
  rcases inRange_cases base len s u with ⟨-, e⟩ | ⟨-, -, e⟩
  · cases e.symm.trans h
    rfl
  · simp [halted_of_raise (e.symm.trans h)] at hh

theorem keySkip_completed {level : Bool} {x : Reg} (h : keySkip level x s = .next t) (hh : t.halted = false) :
    t = s.skipIf (s.keyDown (s.reg x).toNat == level) := by
  unfold keySkip at h
  split at h
  · simp [halted_of_raise h] at hh
  · cases h
    rfl

theorem execRet_completed (h : exec .ret s = .next t) (hh : t.halted = false) :
    ∃ (j : Fin 16) (k : Fin 17), j.val + 1 = s.sp.val ∧ k.val + 1 = s.sp.val ∧
      t = (s.setSp k).setPc (s.stackAt j) := by
  rcases s.pop_cases with ⟨-, e⟩ | ⟨j, k, hj, hk, e⟩ <;> simp only [exec, execRet, e] at h
  · simp [halted_of_raise h] at hh
  · cases h
    exact ⟨j, k, hj, hk, rfl⟩

theorem execCall_completed {nnn : Addr12} (h : exec (.call nnn) s = .next t) (hh : t.halted = false) :
    ∃ (j : Fin 16) (k : Fin 17), j.val = s.sp.val ∧ k.val = s.sp.val + 1 ∧
      t = ((s.setStack (s.stack.set j.val s.pc j.isLt)).setSp k).setPc (addrOf nnn) := by
  rcases s.push_cases s.pc with ⟨-, e⟩ | ⟨j, k, hj, hk, e⟩ <;> simp only [exec, execCall, e] at h
  · simp [halted_of_raise h] at hh
  · cases h
    exact ⟨j, k, hj, hk, rfl⟩

/-- Fx0A stores a key, if one is pressed, or rewinds `pc` (45_keypad_timers.md R242). -/
theorem execLdVxK_next {x : Reg} (h : exec (.ldVxK x) s = .next t) :
    (s.key ≠ 0#16 ∧ ∃ b, t = s.setReg x b) ∨ (s.key = 0#16 ∧ t = s.setPc (s.pc - 2#16)) := by
  rcases s.leastKey_cases with ⟨m, e, -, hm, -⟩ | ⟨e, hnone⟩ <;> simp only [exec, execLdVxK, e] at h <;> cases h
  · refine .inl ⟨fun h0 => ?_, _, rfl⟩
    simp [State.keyDown, h0] at hm
  · exact .inr ⟨BitVec.eq_of_getLsbD_eq fun j hj => by simpa [State.keyDown] using hnone j hj, rfl⟩

end Completed

/-! ### Frames of the shared operations -/

section Frames
variable {W : Piece → Prop} {s : State}

theorem onlyChanges_skipIf {c : Bool} (h : W .pc) : OnlyChanges W s (s.skipIf c) := by
  rw [State.skipIf_eq]
  exact onlyChanges_setPc h

theorem onlyChanges_setFlag {c : Bool} (h : W (.reg vf)) : OnlyChanges W s (s.setFlag c) := onlyChanges_setReg h

theorem onlyChanges_resultThenFlag {x : Reg} {r : Byte} {c : Bool} (h : W (.reg x)) (h' : W (.reg vf)) :
    OnlyChanges W s (s.resultThenFlag x r c) :=
  (onlyChanges_setReg h).trans (onlyChanges_setFlag h')

theorem onlyChanges_flagThenResult {x : Reg} {r : Byte} {c : Bool} (h : W (.reg x)) (h' : W (.reg vf)) :
    OnlyChanges W s (s.flagThenResult x c r) :=
  (onlyChanges_setFlag h').trans (onlyChanges_setReg h)

theorem onlyChanges_latched (h : W .pc) (h' : W .opcode) : OnlyChanges W s s.latched :=
  (onlyChanges_setPc h).trans (onlyChanges_setOpcode h')

theorem onlyChanges_tick (h : W .dt) (h' : W .st) : OnlyChanges W s s.tick :=
  (onlyChanges_setDt h).trans (onlyChanges_setSt h')

end Frames

/-! ### The frame of all 34 instructions -/

/-- A completed execute phase changes only what `mayChange` lists. -/
theorem exec_onlyChanges {i : Instr} {s t : State} (h : exec i s = .next t) (hh : t.halted = false) :
    OnlyChanges (mayChange i s) s t := by
  cases i with
  | cls => cases h; exact onlyChanges_setVideo fun _ hp => hp
  | ret =>
    obtain ⟨j, k, -, -, rfl⟩ := execRet_completed h hh
    exact (onlyChanges_setSp (.inl rfl)).trans (onlyChanges_setPc (.inr rfl))
  | call nnn =>
    obtain ⟨j, k, hj, -, rfl⟩ := execCall_completed h hh
    exact ((onlyChanges_setStack (.inr (.inr ⟨j, hj, rfl⟩))).trans (onlyChanges_setSp (.inl rfl))).trans
      (onlyChanges_setPc (.inr (.inl rfl)))
  | jp | jpV0 => cases h; exact onlyChanges_setPc rfl
  | seImm | sneImm | seReg | sneReg => cases h; exact onlyChanges_skipIf rfl
  | skp | sknp => rw [keySkip_completed h hh]; exact onlyChanges_skipIf rfl
  | ldImm | addImm | ldReg | orReg | andReg | xorReg | ldVxDt => cases h; exact onlyChanges_setReg rfl
  | addReg | subReg | subnReg => cases h; exact onlyChanges_resultThenFlag (.inl rfl) (.inr rfl)
  | shr | shl => cases h; exact onlyChanges_flagThenResult (.inl rfl) (.inr rfl)
  | rnd => cases h; exact (onlyChanges_setReg (.inl rfl)).trans (onlyChanges_setDraws (.inr rfl))
  | ldI | addI | ldF => cases h; exact onlyChanges_setIndex rfl
  | ldDtVx => cases h; exact onlyChanges_setDt rfl
  | ldStVx => cases h; exact onlyChanges_setSt rfl
  | ldVxK =>
    obtain ⟨-, b, rfl⟩ | ⟨-, rfl⟩ := execLdVxK_next h
    · exact onlyChanges_setReg (.inl rfl)
    · exact onlyChanges_setPc (.inr rfl)
  | drw =>
    rw [inRange_completed h hh]
    exact (onlyChanges_setVideo fun _ hp => .inr hp).trans (onlyChanges_setFlag (.inl rfl))
  | ldB => rw [inRange_completed h hh]; exact onlyChanges_writeList fun _ hp => hp
  | ldMemVx x =>
    rw [inRange_completed h hh]
    exact onlyChanges_writeList fun _ hp => by rwa [State.length_firstRegs s _ (by omega)] at hp
  | ldVxMem x =>
    rw [inRange_completed h hh]
    exact onlyChanges_loadRegs (by omega) fun z hz => ⟨z, by omega, rfl⟩

/-- Settles O43: a completed execute phase has the frame of its instruction, a raise that of every fault. -/
theorem everyInstructionChangesOnlyItsOwn : Obligations.EveryInstructionChangesOnlyItsOwn := by
  intro i s t hs h
  refine ⟨exec_onlyChanges h, fun hh => ?_⟩
  rcases exec_completed_or_faulted h with ⟨ht, -⟩ | ⟨r, -, rfl⟩
  · simp [ht, hs] at hh
  · exact onlyChanges_enterFault (by simp) (by simp)

/-! ### `pc`, memory and the stack after a completed execute phase -/

section Completed
variable {i : Instr} {s t : State}

theorem pc_skipIf (s : State) (c : Bool) : (s.skipIf c).pc = skipTo c s.pc := by
  rw [State.skipIf_eq]
  rfl

/-- The entry a return pops, as the list of 10_state.md R25 writes it. -/
theorem getD_stack {j : Fin 16} (h : j.val = s.sp.val - 1) :
    s.stack.toList.getD (s.sp.val - 1) 0#16 = s.stackAt j := by
  simp [State.stackAt, ← h]

/-- A completed execute phase leaves `pc` as the list of 10_state.md R25 says: the instructions that write it case by case,
the others by their frame. -/
theorem exec_pc (h : exec i s = .next t) (hh : t.halted = false) : t.pc = pcAfter i s := by
  cases i with
  | jp | jpV0 => cases h; rfl
  | call =>
    obtain ⟨j, k, -, -, rfl⟩ := execCall_completed h hh
    rfl
  | ret =>
    obtain ⟨j, k, hj, -, rfl⟩ := execRet_completed h hh
    exact (getD_stack (by omega)).symm
  | seImm | sneImm | seReg | sneReg => cases h; exact pc_skipIf s _
  | skp => rw [keySkip_completed h hh, pc_skipIf, beq_true]; rfl
  | sknp => rw [keySkip_completed h hh, pc_skipIf]; rfl
  | ldVxK =>
    obtain ⟨hk, b, rfl⟩ | ⟨hk, rfl⟩ := execLdVxK_next h
    · exact (if_neg hk).symm
    · exact (if_pos hk).symm
  | _ => exact exec_onlyChanges h hh .pc nofun

/-- A completed execute phase leaves memory alone or writes bytes one after another. -/
theorem exec_mem (h : exec i s = .next t) (hh : t.halted = false) :
    t.mem = s.mem ∨ ∃ a bs, t.mem = s.mem.writeList a bs := by
  cases i with
  | ldB | ldMemVx => rw [inRange_completed h hh]; exact .inr ⟨_, _, rfl⟩
  | drw => rw [inRange_completed h hh]; exact .inl rfl
  | ldVxMem => rw [inRange_completed h hh, State.loadRegs_eq_setV]; exact .inl rfl
  | ret => obtain ⟨_, _, -, -, rfl⟩ := execRet_completed h hh; exact .inl rfl
  | call => obtain ⟨_, _, -, -, rfl⟩ := execCall_completed h hh; exact .inl rfl
  | skp | sknp => rw [keySkip_completed h hh, State.skipIf_eq]; exact .inl rfl
  | seImm | sneImm | seReg | sneReg => cases h; rw [State.skipIf_eq]; exact .inl rfl
  | ldVxK => obtain ⟨-, b, rfl⟩ | ⟨-, rfl⟩ := execLdVxK_next h <;> exact .inl rfl
  | _ => cases h; exact .inl rfl

/-- A completed execute phase pushes the address of its instruction, a call, or leaves every stack entry and does not
raise `sp`. -/
theorem exec_stack (h : exec i s = .next t) (hh : t.halted = false) :
    (t.sp.val ≤ s.sp.val ∧ ∀ j, t.stackAt j = s.stackAt j) ∨
    ∃ nnn, ∃ k : Fin 16, i = .call nnn ∧ k.val = s.sp.val ∧ t.sp.val = s.sp.val + 1 ∧
      ∀ j, t.stackAt j = if j = k then s.pc else s.stackAt j := by
  cases i with
  | call nnn =>
    obtain ⟨j, k, hj, hk, rfl⟩ := execCall_completed h hh
    exact .inr ⟨nnn, j, rfl, hj, hk, fun i => State.stackAt_setStack_set s j i s.pc⟩
  | ret =>
    obtain ⟨j, k, -, hk, rfl⟩ := execRet_completed h hh
    exact .inl ⟨show k.val ≤ s.sp.val by omega, fun _ => rfl⟩
  | _ =>
    have frame := exec_onlyChanges h hh
    have hsp : t.sp = s.sp := frame .sp nofun
    exact .inl ⟨hsp ▸ Nat.le_refl _, fun j => frame (.stack j) nofun⟩

/-- A completed execute phase writes `V[x]` into the sound timer, being Fx18, or leaves it. -/
theorem exec_st (h : exec i s = .next t) (hh : t.halted = false) :
    t.st = s.st ∨ ∃ x, i = .ldStVx x ∧ t.st = s.reg x := by
  cases i with
  | ldStVx x => cases h; exact .inr ⟨x, rfl, rfl⟩
  | _ => exact .inl (exec_onlyChanges h hh .st nofun)

end Completed

/-- Settles O40: `exec_pc`. -/
theorem everyInstructionLeavesThePcOfTheTable : Obligations.EveryInstructionLeavesThePcOfTheTable :=
  fun _ _ _ _ => exec_pc

/-! ### What a step to a next state is -/

section Steps
variable {i : Instr} {s t : State}

/-- A step to a next state takes a fault, or it completes an instruction and ticks. -/
theorem step_next_cases (h : step s = .next t) :
    (∃ r, r.kind ≠ .noFault ∧ t = s.enterFault r) ∨
    ∃ i u, Runs s i ∧ exec i s.latched = .next u ∧ u.halted = false ∧ t = u.tick := by
  rcases step_cases s with ⟨-, e⟩ | ⟨-, -, e⟩ | ⟨-, -, -, e⟩ | ⟨hs, ha, i, u, hd, hu, e⟩ <;> cases e.symm.trans h
  · exact .inl ⟨_, by simp [fetchFault], rfl⟩
  · exact .inl ⟨_, by simp [decodeFault], rfl⟩
  · rcases exec_completed_or_faulted hu with ⟨hc, -⟩ | ⟨r, hr, rfl⟩
    · have hh : u.halted = false := hc.trans hs
      exact .inr ⟨i, u, ⟨hs, ha, hd⟩, hu, hh, by simp [hh]⟩
    · exact .inl ⟨r, hr, rfl⟩

/-- The execute phase of a completed step that runs `i`. -/
theorem completes_cases (hc : Completes s t) (hr : Runs s i) :
    ∃ u, exec i s.latched = .next u ∧ u.halted = false ∧ t = u.tick := by
  obtain ⟨hstep, hh⟩ := hc
  obtain ⟨r, -, rfl⟩ | ⟨i', u, ⟨-, -, hd⟩, hu, hu', rfl⟩ := step_next_cases hstep
  · cases hh
  · cases hd.symm.trans hr.2.2
    exact ⟨u, hu, hu', rfl⟩

/-- The frame of a completed step: that of its instruction, `pc` and `opcode` latched before it, the timers ticked after. -/
theorem completed_onlyChanges {u : State} (hu : exec i s.latched = .next u) (hh : u.halted = false) :
    OnlyChanges (fun p => mayChange i s p ∨ p ∈ [.pc, .opcode, .dt, .st]) s u.tick := by
  have frame : OnlyChanges (mayChange i s) s.latched u := exec_onlyChanges hu hh
  exact ((onlyChanges_latched (by simp) (by simp)).trans (frame.mono fun _ => .inl)).trans
    (onlyChanges_tick (by simp) (by simp))

end Steps

/-! ### The invariants -/

/-- Settles O50: a fault leaves memory, and an instruction leaves it or writes bytes, which keeps the form. -/
theorem stepKeepsMemoryCanonical : Obligations.StepKeepsMemoryCanonical := by
  intro s t hwf h
  obtain ⟨r, -, rfl⟩ | ⟨i, u, -, hu, hh, rfl⟩ := step_next_cases h
  · exact hwf
  · change u.mem.wf = true
    rcases exec_mem hu hh with e | ⟨a, bs, e⟩ <;> rw [e]
    · exact hwf
    · exact Memory.wf_writeList bs a hwf

theorem toNat_fetchAddr {s : State} (h : s.pc.toNat ≤ 0x10FE) : s.fetchAddr.toNat = s.pc.toNat + 2 := by
  simp only [State.fetchAddr]
  bv_omega

/-- The targets of the list of 10_state.md R25: from an address 2 to 0xFFE none exceeds 0x10FE, that of the largest Bnnn. -/
theorem pcAfter_le {i : Instr} {s : State} (h2 : 2 ≤ s.pc.toNat) (hpc : s.pc.toNat ≤ 0xFFE)
    (hstack : ∀ j, (s.stackAt j).toNat ≤ 0xFFE) : (pcAfter i s).toNat ≤ 0x10FE := by
  have skip (c : Bool) : (skipTo c s.pc).toNat ≤ 0x10FE := by
    cases c <;> simp only [skipTo, Bool.false_eq_true, if_true, if_false] <;> bv_omega
  cases i with
  | seImm | sneImm | seReg | sneReg | skp | sknp => exact skip _
  | jp nnn | call nnn =>
    change (nnn.setWidth 16).toNat ≤ 0x10FE
    bv_omega
  | jpV0 nnn =>
    change ((s.reg 0#4).setWidth 16 + nnn.setWidth 16).toNat ≤ 0x10FE
    bv_omega
  | ret =>
    change (s.stack.toList.getD (s.sp.val - 1) 0#16).toNat ≤ 0x10FE
    rw [getD_stack (j := ⟨s.sp.val - 1, by omega⟩) rfl]
    exact Nat.le_trans (hstack _) (by decide)
  | ldVxK =>
    change (if s.key = 0#16 then s.pc - 2#16 else s.pc).toNat ≤ 0x10FE
    split <;> bv_omega
  | _ => exact Nat.le_trans hpc (by decide)

/-- Settles O51: `pcAfter_le` for `pc`; the only entry written is the address of a call, which was fetched. -/
theorem stepKeepsPcAndStackInRange : Obligations.StepKeepsPcAndStackInRange := by
  rintro s t ⟨hpc, hstack⟩ h
  have ha := toNat_fetchAddr hpc
  obtain ⟨r, -, rfl⟩ | ⟨i, u, ⟨-, hin, -⟩, hu, hh, rfl⟩ := step_next_cases h
  · exact ⟨hpc, hstack⟩
  · constructor
    · exact exec_pc hu hh ▸ pcAfter_le (s := s.latched) (show 2 ≤ s.fetchAddr.toNat by omega)
        (show s.fetchAddr.toNat ≤ 0xFFE by omega) hstack
    · intro j
      rcases exec_stack hu hh with ⟨-, e⟩ | ⟨nnn, k, -, -, -, e⟩ <;> refine (e j).symm ▸ ?_
      · exact hstack j
      · split
        · exact Nat.le_of_succ_le_succ hin
        · exact hstack j

/-- Settles O53: `pc` stays in range, so its sum with 2 does not wrap; a push adds the address of its call, at least 2, and
no other instruction makes more entries count as in use. -/
theorem bytesZeroAndOneAreNeverFetched : Obligations.BytesZeroAndOneAreNeverFetched := by
  rintro s t ⟨hpc, hstack, huse⟩ h
  have ha := toNat_fetchAddr hpc
  have ha' := toNat_fetchAddr (stepKeepsPcAndStackInRange s t ⟨hpc, hstack⟩ h).1
  refine ⟨by omega, by omega, ?_⟩
  obtain ⟨r, -, rfl⟩ | ⟨i, u, -, hu, hh, rfl⟩ := step_next_cases h
  · exact huse
  · intro j hj
    change j.val < u.sp.val at hj
    rcases exec_stack hu hh with ⟨hsp, e⟩ | ⟨nnn, k, -, hk, hsp, e⟩ <;> refine (e j).symm ▸ ?_
    · exact huse j (Nat.lt_of_lt_of_le hj hsp)
    · change k.val = s.sp.val at hk
      change u.sp.val = s.sp.val + 1 at hsp
      split
      · exact show 2 ≤ s.fetchAddr.toNat by omega
      · exact huse j (by omega)

/-- Settles O52: a fault sets both, and an instruction leaves both. -/
theorem stepKeepsTheRecordWithHalted : Obligations.StepKeepsTheRecordWithHalted := by
  intro s t hs h
  obtain ⟨r, hr, rfl⟩ | ⟨i, u, -, hu, hh, rfl⟩ := step_next_cases h
  · simp [hr]
  · obtain ⟨e, e', -, -⟩ := exec_completed hu hh
    change u.halted = true ↔ u.fault.kind ≠ .noFault
    rw [e, e']
    exact hs

/-! ### Who writes what -/

theorem mayChange_pixel {i : Instr} {s : State} {py : Fin 32} {px : Fin 64} (h : mayChange i s (.pixel py px)) :
    i = .cls ∨ ∃ x y n, i = .drw x y n := by
  cases i with
  | cls => exact .inl rfl
  | drw x y n => exact .inr ⟨x, y, n, rfl⟩
  | _ => nomatch h

theorem mayChange_memory {i : Instr} {s : State} {a : Nat} (h : mayChange i s (.memory a)) :
    (∃ x, i = .ldB x ∧ s.index.toNat ≤ a ∧ a ≤ s.index.toNat + 2) ∨
    ∃ x : Reg, i = .ldMemVx x ∧ s.index.toNat ≤ a ∧ a ≤ s.index.toNat + x.toNat := by
  cases i with
  | ldB x =>
    obtain ⟨k, hk, ⟨rfl⟩⟩ := h
    exact .inl ⟨x, rfl, by omega, by omega⟩
  | ldMemVx x =>
    obtain ⟨k, hk, ⟨rfl⟩⟩ := h
    exact .inr ⟨x, rfl, by omega, by omega⟩
  | _ => nomatch h

theorem mayChange_stack {i : Instr} {s : State} {j : Fin 16} (h : mayChange i s (.stack j)) :
    j.val = s.sp.val ∧ ∃ nnn, i = .call nnn := by
  cases i with
  | call nnn =>
    obtain h | h | ⟨k, hk, ⟨rfl⟩⟩ := h
    · cases h
    · cases h
    · exact ⟨hk, nnn, rfl⟩
  | _ => nomatch h

theorem mayChange_index {i : Instr} {s : State} (h : mayChange i s .index) :
    (∃ nnn, i = .ldI nnn) ∨ ∃ x, i = .addI x ∨ i = .ldF x := by
  cases i with
  | ldI nnn => exact .inl ⟨nnn, rfl⟩
  | addI x => exact .inr ⟨x, .inl rfl⟩
  | ldF x => exact .inr ⟨x, .inr rfl⟩
  | _ => nomatch h

theorem not_mayChange_exa1SourceQuirk (i : Instr) (s : State) : ¬ mayChange i s .exa1SourceQuirk := by
  cases i <;> nofun

/-- A piece that differs after a step belongs to the instruction the step ran, or to the latch, the tick or a fault. -/
theorem mayChange_of_step {s t : State} {p : Piece} (h : step s = .next t) (hp : ¬ p.Same s t)
    (hw : p ∉ [.pc, .opcode, .dt, .st, .halted, .fault]) : ∃ i, Runs s i ∧ mayChange i s p := by
  obtain ⟨r, -, rfl⟩ | ⟨i, u, hr, hu, hh, rfl⟩ := step_next_cases h
  · refine absurd (onlyChanges_enterFault (W := (· ∈ [.halted, .fault])) (by simp) (by simp) p fun h => hw ?_) hp
    simp_all
  · refine ⟨i, hr, by_contra fun hm => hp (completed_onlyChanges hu hh p ?_)⟩
    simp_all

/-- Settles O44: what differs belongs to the instruction the step ran, by the table `mayChange`. -/
theorem onlyTheNamedInstructionsWrite : Obligations.OnlyTheNamedInstructionsWrite := by
  intro s t h
  refine ⟨?_, ?_, fun py px hne => ?_, fun a hne => ?_, fun j hne => ?_, fun hne => ?_⟩
  · obtain ⟨r, -, rfl⟩ | ⟨i, u, -, hu, hh, rfl⟩ := step_next_cases h
    · rfl
    · exact (exec_completed hu hh).2.2.2
  · refine by_contra fun hne => ?_
    obtain ⟨i, -, hm⟩ := mayChange_of_step (p := .exa1SourceQuirk) h hne (by simp)
    exact not_mayChange_exa1SourceQuirk i s hm
  · obtain ⟨i, hr, hm⟩ := mayChange_of_step (p := .pixel py px) h hne (by simp)
    obtain rfl | ⟨x, y, n, rfl⟩ := mayChange_pixel hm
    · exact .inl hr
    · exact .inr ⟨x, y, n, hr⟩
  · obtain ⟨i, hr, hm⟩ := mayChange_of_step (p := .memory a) h hne (by simp)
    obtain ⟨x, rfl, hlo, hhi⟩ | ⟨x, rfl, hlo, hhi⟩ := mayChange_memory hm
    · exact .inl ⟨x, hr, hlo, hhi⟩
    · exact .inr ⟨x, hr, hlo, hhi⟩
  · obtain ⟨i, hr, hm⟩ := mayChange_of_step (p := .stack j) h hne (by simp)
    obtain ⟨hj, nnn, rfl⟩ := mayChange_stack hm
    exact ⟨hj, nnn, hr⟩
  · obtain ⟨i, hr, hm⟩ := mayChange_of_step (p := .index) h hne (by simp)
    obtain ⟨nnn, rfl⟩ | ⟨x, rfl | rfl⟩ := mayChange_index hm
    · exact .inl ⟨nnn, hr⟩
    · exact .inr ⟨x, .inl hr⟩
    · exact .inr ⟨x, .inr hr⟩

theorem tickSound_eq_zero {b : Byte} : tickSound b = 0x00#8 ↔ b = 0x00#8 := by
  unfold tickSound
  split <;> constructor <;> intro h <;> bv_omega

/-- Settles O45: the tick takes no other value to 0 and leaves 1, and before it only Fx18 writes the timer. -/
theorem soundTimerNeverCountsToZero : Obligations.SoundTimerNeverCountsToZero := by
  intro s t h
  obtain ⟨r, -, rfl⟩ | ⟨i, u, hr, hu, hh, rfl⟩ := step_next_cases h
  · exact ⟨.inl, fun h1 _ => h1⟩
  · rw [State.st_tick, tickSound_eq_zero]
    obtain e | ⟨x, rfl, e⟩ := exec_st hu hh <;> rw [e]
    · exact ⟨.inl, fun h1 _ => congrArg tickSound h1⟩
    · exact ⟨fun h0 => .inr ⟨x, hr, h0⟩, fun _ hno => absurd hr (hno x)⟩

/-! ### Transfers of control -/

/-- Settles O41: `pc` is that of the list of 10_state.md R25, and the next fetch is 2 further, without a wrap. -/
theorem transfersAreBiasedByTwo : Obligations.TransfersAreBiasedByTwo := by
  intro s t nnn hc
  have target (i : Instr) (hr : Runs s i) : t.fetchAddr = pcAfter i s.latched + 2#16 := by
    obtain ⟨u, hu, hh, rfl⟩ := completes_cases hc hr
    have hpc := exec_pc hu hh
    exact congrArg (· + 2#16) hpc
  refine ⟨fun hr => ?_, fun hr => ?_, fun hr => ?_⟩
  · have e : t.fetchAddr = nnn.setWidth 16 + 2#16 := hr.elim (target _) (target _)
    rw [e]
    bv_omega
  · rw [target _ hr]
    change ((s.reg 0#4).setWidth 16 + nnn.setWidth 16 + 2#16).toNat = _
    bv_omega
  · obtain ⟨u, hu, hh, rfl⟩ := completes_cases hc hr
    obtain ⟨j, k, hj, -, rfl⟩ := execRet_completed hu hh
    exact ⟨j, hj, rfl⟩

theorem execCall_of_free {s : State} (nnn : Addr12) (h : s.sp.val < 16) :
    ∃ (j : Fin 16) (k : Fin 17), j.val = s.sp.val ∧ k.val = s.sp.val + 1 ∧
      exec (.call nnn) s = .next (((s.setStack (s.stack.set j.val s.pc j.isLt)).setSp k).setPc (addrOf nnn)) := by
  obtain ⟨j, k, hj, hk, e⟩ := State.push_some (w := s.pc) h
  exact ⟨j, k, hj, hk, by simp only [exec, execCall, e]⟩

theorem execRet_of_inUse {s : State} (h : s.sp.val ≠ 0) :
    ∃ (j : Fin 16) (k : Fin 17), j.val + 1 = s.sp.val ∧ k.val + 1 = s.sp.val ∧
      exec .ret s = .next ((s.setSp k).setPc (s.stackAt j)) := by
  obtain ⟨j, k, hj, hk, e⟩ := State.pop_some h
  exact ⟨j, k, hj, hk, by simp only [exec, execRet, e]⟩

/-- A piece that is the same in the end may be left out of the frame. -/
theorem OnlyChanges.erase {W : Piece → Prop} {q : Piece} {s t : State} (h : OnlyChanges (fun p => W p ∨ p = q) s t)
    (hq : q.Same s t) : OnlyChanges W s t := by
  intro p hp
  by_cases e : p = q
  · exact e ▸ hq
  · exact h p (by simp [hp, e])

/-- Settles O42: the return pops the slot the call wrote, which holds the address of the call. -/
theorem returnComesBackAfterTheCall : Obligations.ReturnComesBackAfterTheCall := by
  intro s nnn hr hfree
  obtain ⟨j, k, hj, hk, hcall⟩ := execCall_of_free (s := s.latched) nnn hfree
  change j.val = s.sp.val at hj
  change k.val = s.sp.val + 1 at hk
  refine ⟨_, completes_of_runs hr hcall hr.1, fun hr' => ?_⟩
  have frameCall := completed_onlyChanges hcall hr.1
  generalize ht : State.tick _ = t at hr' frameCall ⊢
  have hsp : t.sp = k := ht ▸ rfl
  have hslot : t.stackAt j = s.fetchAddr := ht ▸ (State.stackAt_setStack_set s.latched j j _).trans (if_pos rfl)
  obtain ⟨j', k', hj', hk', hret⟩ := execRet_of_inUse (s := t.latched) (show t.sp.val ≠ 0 by omega)
  change j'.val + 1 = t.sp.val at hj'
  change k'.val + 1 = t.sp.val at hk'
  obtain rfl : j' = j := by omega
  have frameRet := completed_onlyChanges hret hr'.1
  refine ⟨_, completes_of_runs hr' hret hr'.1, hslot, congrArg (· + 2#16) hslot, show k' = s.sp by omega, ?_⟩
  refine OnlyChanges.erase (q := .sp) ?_ (show k' = s.sp by omega)
  refine (frameCall.mono ?_).trans (frameRet.mono ?_)
  · rintro p ((rfl | rfl | ⟨i, hi, rfl⟩) | hp)
    · simp
    · simp
    · exact .inl (.inr ⟨i, hi, rfl⟩)
    · exact .inl (.inl hp)
  · rintro p ((rfl | rfl) | hp)
    · simp
    · simp
    · exact .inl (.inl hp)

/-! ### The sound timer and the keys, which other instructions do not read -/

/-- Other values in the sound timer and the key latches. -/
def Machine.State.mapStKey (f : Byte → Byte) (g : Word → Word) (s : State) : State :=
  (s.setSt (f s.st)).setKey (g s.key)

theorem mapStKey_st (s : State) (b : Byte) : s.mapStKey (fun _ => b) id = s.setSt b := rfl

theorem mapStKey_key (s : State) (k : Word) : s.mapStKey id (fun _ => k) = s.setKeys k := rfl

/-- `f` on the next state of an answer. -/
def mapNext (f : State → State) : Host.Outcome State Fault Refusal → Host.Outcome State Fault Refusal
  | .next s => .next (f s)
  | .fault r => .fault r
  | .refused r => .refused r

section MapStKey
variable (f : Byte → Byte) (g : Word → Word) (s t : State)

theorem skipIf_mapStKey (c : Bool) : (s.mapStKey f g).skipIf c = (s.skipIf c).mapStKey f g := by
  cases c <;> rfl

theorem pop_mapStKey : (s.mapStKey f g).pop = s.pop.map fun r => (r.1, r.2.mapStKey f g) := by
  by_cases h : s.sp.val = 0
  · rw [State.pop_empty h]
    exact State.pop_empty h
  · simp only [State.pop, dif_neg h]
    exact dif_neg h

theorem push_mapStKey (w : Word) : (s.mapStKey f g).push w = (s.push w).map (State.mapStKey f g) := by
  by_cases h : s.sp.val < 16
  · simp only [State.push, dif_pos h]
    exact dif_pos h
  · simp only [State.push, dif_neg h]
    exact dif_neg h

theorem inRange_mapStKey {base len : Nat} {u : State} (h : u = t.mapStKey f g) :
    inRange base len (s.mapStKey f g) u = mapNext (State.mapStKey f g) (inRange base len s t) := by
  subst h
  unfold inRange
  split <;> rfl

/-- A skip on a key does the same where the keys are the same. -/
theorem keySkip_mapStKey (level : Bool) (x : Reg) : keySkip level x (s.mapStKey f id) =
    mapNext (State.mapStKey f id) (keySkip level x s) := by
  by_cases h : (s.reg x).toNat > 15
  · rw [keySkip, keySkip, if_pos h, if_pos (show ((s.mapStKey f id).reg x).toNat > 15 from h)]
    rfl
  · rw [keySkip, keySkip, if_neg h, if_neg (show ¬ ((s.mapStKey f id).reg x).toNat > 15 from h), skipIf_mapStKey]
    rfl

theorem loadRegs_mapStKey (base n : Nat) : (s.mapStKey f g).loadRegs base n = (s.loadRegs base n).mapStKey f g := by
  induction n with
  | zero => rfl
  | succ n ih => simp only [State.loadRegs, ih]; rfl

/-- Every instruction does the same with other values in the sound timer, if it is not Fx18, and in the key latches, if it
is not one of the three that read them. -/
theorem exec_mapStKey (i : Instr) (hst : f = id ∨ ∀ x, i ≠ .ldStVx x)
    (hkey : g = id ∨ ∀ x, i ≠ .skp x ∧ i ≠ .sknp x ∧ i ≠ .ldVxK x) :
    exec i (s.mapStKey f g) = mapNext (State.mapStKey f g) (exec i s) := by
  cases i with
  | ldStVx x =>
    obtain rfl := hst.resolve_right fun h => h x rfl
    rfl
  | skp x =>
    obtain rfl := hkey.resolve_right fun h => (h x).1 rfl
    exact keySkip_mapStKey f s true x
  | sknp x =>
    obtain rfl := hkey.resolve_right fun h => (h x).2.1 rfl
    exact keySkip_mapStKey f s s.exa1SourceQuirk x
  | ldVxK x =>
    obtain rfl := hkey.resolve_right fun h => (h x).2.2 rfl
    rcases s.leastKey_cases with ⟨m, e, -⟩ | ⟨e, -⟩ <;>
      simp only [exec, execLdVxK, e, show (s.mapStKey f id).leastKey = s.leastKey from rfl] <;> rfl
  | ret =>
    simp only [exec, execRet, pop_mapStKey]
    cases s.pop <;> rfl
  | call nnn =>
    simp only [exec, execCall, show (s.mapStKey f g).pc = s.pc from rfl, push_mapStKey]
    cases s.push s.pc <;> rfl
  | seImm | sneImm | seReg | sneReg => exact congrArg _ (skipIf_mapStKey f g s _)
  | drw | ldB | ldMemVx => exact inRange_mapStKey f g s _ rfl
  | ldVxMem x => exact inRange_mapStKey f g s _ (loadRegs_mapStKey f g s _ _)
  | _ => rfl

end MapStKey

/-- Settles O46: `exec_mapStKey`; Fx18 overwrites the timer it does not read. -/
theorem soundTimerIsNeverRead : Obligations.SoundTimerIsNeverRead := by
  intro i s t b h
  refine ⟨fun hi => ?_, ?_⟩
  · rw [← mapStKey_st, exec_mapStKey _ _ s i (.inr hi) (.inl rfl), h]
    rfl
  · rintro ⟨x, rfl⟩
    exact h

/-- Settles O47: with other keys the step runs the same instruction, which does the same, and ends the same way. -/
theorem keysAreReadByThreeInstructionsOnly : Obligations.KeysAreReadByThreeInstructionsOnly := by
  intro s t i k hr h hi
  obtain ⟨u, hu⟩ := exec_isNext i s.latched
  cases (step_of_runs hr hu).symm.trans h
  have hu' : exec i (s.setKeys k).latched = .next (u.setKeys k) := by
    have e := exec_mapStKey id (fun _ => k) s.latched i (.inl rfl) (.inr hi)
    rw [mapStKey_key, hu] at e
    exact e
  rw [step_of_runs (show Runs (s.setKeys k) i from hr) hu']
  change Host.Outcome.next (if u.halted then _ else _) = _
  split <;> rfl

/-! ### Reset -/

/-- Settles O54: the base case of the invariants. -/
theorem resetMeetsTheInvariants : Obligations.ResetMeetsTheInvariants := by
  intro p
  have hstack (j : Fin 16) : (State.resetWith p).stackAt j = 0x0000#16 := by
    simp [State.stackAt, State.reset]
  refine ⟨State.mem_wf_resetWith p, ⟨by simp [State.reset], fun j => by simp [hstack j]⟩, rfl, rfl, ?_, rfl, nofun⟩
  simp [State.reset]

/-- The reset load of the default font writes nothing that reads otherwise. -/
theorem resetWith_default : State.resetWith defaultParams = State.reset := by
  decide

/-- Settles O56: registers, stack and pixels are constant vectors, memory reads as `readByte_resetWith` says. -/
theorem resetValues : Obligations.ResetValues := by
  refine ⟨resetWith_default, rfl, ?_⟩
  rintro p s rfl
  refine ⟨fun x => ?_, rfl, rfl, fun j => ?_, rfl, rfl, rfl, rfl, rfl, rfl, fun k hk => ?_, fun a _ hout => ?_,
    fun py px => ?_, rfl, rfl, rfl⟩
  · simp [State.reg, State.reset]
  · simp [State.stackAt, State.reset]
  · rw [State.readByte_resetWith, if_pos (by simp only [Config.fontBase]; omega)]
    simp [Config.fontBase, hk]
  · have hfont : ¬ (Config.fontBase ≤ a ∧ a < Config.fontBase + 80) := by
      simp only [Config.fontBase]
      omega
    rw [State.readByte_resetWith, if_neg hfont]
    exact if_neg hfont
  · simp [State.pixel, State.reset]

end Sys2Proof

/-! PROOFS. The statements of the family 20_memory.md. First what Fx55 and Fx33 leave in memory, byte by byte; then that
a step which writes memory alone is followed by the fetch of the bytes it left (R72). -/

namespace Sys2Proof

open Sys2Proof.Machine

/-! ### The two stores -/

section Stores
variable {s : State} {x : Reg}

/-- Inside memory Fx55 stores the registers and does nothing else. -/
theorem execLdMemVx_of_le (h : s.index.toNat + x.toNat ≤ 0xFFF) :
    exec (.ldMemVx x) s = .next (s.setMem (s.mem.writeList s.index.toNat (s.firstRegs (x.toNat + 1)))) :=
  inRange_next _ _ (.inr (by simp only [State.ea]; omega))

/-- Inside memory Fx33 stores the digits and does nothing else. -/
theorem execLdB_of_le (h : s.index.toNat + 2 ≤ 0xFFF) :
    exec (.ldB x) s = .next (s.setMem (s.mem.writeList s.index.toNat (decimalDigits (s.reg x)))) :=
  inRange_next _ _ (.inr (by simp only [State.ea]; omega))

/-- Every byte after the store of Fx55. -/
theorem read_writeList_firstRegs (hwf : s.mem.wf = true) (h : s.index.toNat + x.toNat ≤ 0xFFF) (c : Nat) :
    (s.mem.writeList s.index.toNat (s.firstRegs (x.toNat + 1))).read c = s.byteAfterRegs x c := by
  have hlen : (s.firstRegs (x.toNat + 1)).length = x.toNat + 1 := s.length_firstRegs _ (by omega)
  rw [Memory.read_writeList _ _ c hwf (by simp only [hlen, Config.memSize]; omega), hlen, State.byteAfterRegs]
  by_cases hc : s.index.toNat ≤ c ∧ c ≤ s.index.toNat + x.toNat
  · rw [if_pos hc, if_pos (by omega), s.getD_firstRegs _ _ (by omega) (by omega)]
  · rw [if_neg hc, if_neg (by omega), State.readByte]

/-- Every byte after the store of Fx33. -/
theorem read_writeList_decimalDigits (hwf : s.mem.wf = true) (h : s.index.toNat + 2 ≤ 0xFFF) (c : Nat) :
    (s.mem.writeList s.index.toNat (decimalDigits (s.reg x))).read c = s.byteAfterDigits x c := by
  have hlen : (decimalDigits (s.reg x)).length = 3 := rfl
  rw [Memory.read_writeList _ _ c hwf (by simp only [hlen, Config.memSize]; omega), hlen, State.byteAfterDigits]
  by_cases hc : s.index.toNat ≤ c ∧ c < s.index.toNat + 3
  · obtain rfl | rfl | rfl : c = s.index.toNat ∨ c = s.index.toNat + 1 ∨ c = s.index.toNat + 2 := by omega
    all_goals simp [decimalDigits]
  · rw [if_neg hc, if_neg (by omega), if_neg (by omega), if_neg (by omega), State.readByte]

end Stores

/-! ### The fetch after a store -/

section Fetch
variable {i : Instr} {s u : State}

/-- A step whose execute phase completes ends in the state that phase left, ticked. -/
theorem Runs.completes (hr : Runs s i) (hu : exec i s.latched = .next u) (hh : u.halted = false) :
    Completes s u.tick := by
  obtain ⟨hs, ha, hd⟩ := hr
  have hf : fetchDecode s = .ok (i, s.latched) := by
    simp [fetchDecode, State.fetchBytes, decode_two_ok [] hd, State.latched, Nat.not_lt.mpr ha]
  exact ⟨by simp [step, hs, hf, hu, finish, hh], hh⟩

/-- The word at `a`, from what the bytes of memory are. -/
theorem wordAt_of_read {b : Nat → Byte} (h : ∀ c, s.mem.read c = b c) (a : Nat) :
    s.wordAt a = wordOfBytes (b a) (b (a + 1)) := by
  simp only [State.wordAt, State.readByte, h]

/-- An instruction that writes memory alone is followed by the fetch of the bytes it left there. -/
theorem completesAndFetches_of_setMem {m : Memory} {b : Nat → Byte} (hr : Runs s i)
    (hu : exec i s.latched = .next (s.latched.setMem m)) (hm : ∀ c, m.read c = b c) : CompletesAndFetches s b := by
  have hc : Completes s (s.latched.setMem m).tick := hr.completes hu hr.1
  have hw := wordAt_of_read (s := (s.latched.setMem m).tick) hm
  refine ⟨_, hc, rfl, ?_, fun j hin hd => ⟨hc.2, hin, (hw _).symm ▸ hd⟩⟩
  rw [hw, toNat_wordOfBytes, Nat.mul_comm]

end Fetch

/-- Settles O48: both stores write memory alone, `read_writeList_firstRegs` and `read_writeList_decimalDigits` say which
bytes they leave, and the next fetch reads those. -/
theorem nextFetchSeesTheStore : Obligations.NextFetchSeesTheStore := by
  intro s x hwf
  refine ⟨fun hr h => ?_, fun hr h => ?_⟩
  · exact completesAndFetches_of_setMem hr (execLdMemVx_of_le h) (read_writeList_firstRegs hwf h)
  · exact completesAndFetches_of_setMem hr (execLdB_of_le h) (read_writeList_decimalDigits hwf h)

end Sys2Proof

/-! PROOFS. The statements of the family 30_encoding.md. First what the decoder makes of the words the encoder builds; then
what it makes of any word, one lemma per table of secondary digits (R96) for the instructions and one for the refusals. -/

namespace Sys2Proof

open Sys2Proof.Machine

/-! ### Built words decode -/

section BuiltWords
variable (x y : Reg) (n : Nibble) (kk : Byte)

@[simp] theorem decodeWord_wordXYN_8 : decodeWord (wordXYN 0x8#4 x y n) = decode8 x y n := by simp [decodeWord]
@[simp] theorem decodeWord_wordXKK_E : decodeWord (wordXKK 0xE#4 x kk) = decodeE x kk := by simp [decodeWord]
@[simp] theorem decodeWord_wordXKK_F : decodeWord (wordXKK 0xF#4 x kk) = decodeF x kk := by simp [decodeWord]

end BuiltWords

/-- The decoder reads every encoded word as its instruction: the primary opcode selects it, or the table of its secondary
digits does. -/
theorem decodeWord_encode (i : Instr) : decodeWord (encode i) = .ok i := by
  cases i with
  | cls | ret => rfl
  | ldReg | orReg | andReg | xorReg | addReg | subReg | shr | subnReg | shl => exact decodeWord_wordXYN_8 _ _ _
  | skp | sknp => exact decodeWord_wordXKK_E _ _
  | ldVxDt | ldVxK | ldDtVx | ldStVx | addI | ldF | ldB | ldMemVx | ldVxMem => exact decodeWord_wordXKK_F _ _
  | _ => simp [encode, decodeWord]

/-- Settles O1: the two bytes make the encoded word again, and `decodeWord_encode`. -/
theorem decodeReturnsTheEncodedInstruction : Obligations.DecodeReturnsTheEncodedInstruction := by
  intro i rest
  exact decode_two_ok rest (by rw [wordOfBytes_bytes, decodeWord_encode])

/-! ### Decoded words -/

/-- The bits of its word that an instruction fixes: all but the ignored `y` of the shifts (30_encoding.md R97). -/
def Instr.fixedBits : Instr → Word
  | .shr _ => 0xFF0F#16
  | .shl _ => 0xFF0F#16
  | _ => 0xFFFF#16

theorem fixedBits_of_not_shift {i : Instr} (hi : ∀ x, i ≠ .shr x ∧ i ≠ .shl x) : i.fixedBits = 0xFFFF#16 := by
  cases i with
  | shr x => exact absurd rfl (hi x).1
  | shl x => exact absurd rfl (hi x).2
  | _ => rfl

section Decoded
variable {w : Word} {x y : Reg} {n : Nibble} {kk : Byte} {i : Instr}

/-- Mask 0xFFFF keeps the word. -/
theorem and_mask_all (w : Word) : w &&& 0xFFFF#16 = w := BitVec.and_allOnes

/-- Mask 0xFF0F clears `y`. -/
theorem and_mask_txn (w : Word) : w &&& 0xFF0F#16 = wordXYN (fieldT w) (fieldX w) 0#4 (fieldN w) := by
  apply BitVec.eq_of_getLsbD_eq
  intro j hj
  rw [getLsbD_wordXYN, BitVec.getLsbD_and]
  interval_cases j <;> simp [fieldT, fieldX, fieldN]

/-- A word is rebuilt from its fields in the format of its primary opcode. -/
theorem wordNNN_of_fieldT {t : Nibble} (ht : (fieldT w).toNat = t.toNat) : wordNNN t (fieldNNN w) = w :=
  BitVec.eq_of_toNat_eq ht ▸ wordNNN_fields w

theorem wordXKK_of_fieldT {t : Nibble} (ht : (fieldT w).toNat = t.toNat) : wordXKK t (fieldX w) (fieldKK w) = w :=
  BitVec.eq_of_toNat_eq ht ▸ wordXKK_fields w

theorem wordXYN_of_fieldT {t : Nibble} (ht : (fieldT w).toNat = t.toNat) (hn : fieldN w = n) :
    wordXYN t (fieldX w) (fieldY w) n = w :=
  hn ▸ BitVec.eq_of_toNat_eq ht ▸ wordXYN_fields w

theorem encode_of_decode0 (h : decode0 w = .ok i) : encode i = wordNNN 0x0#4 (fieldNNN w) &&& i.fixedBits := by
  unfold decode0 at h
  split at h <;> cases h
  all_goals
    rw [show Instr.fixedBits _ = 0xFFFF#16 from rfl, and_mask_all]
    apply BitVec.eq_of_toNat_eq
    simp [encode, toNat_wordNNN, *]

/-- The second digit `n` is the one the encoder writes; the shifts lose their `y`. -/
theorem encode_of_decode8 (h : decode8 x y n = .ok i) : encode i = wordXYN 0x8#4 x y n &&& i.fixedBits := by
  unfold decode8 at h
  split at h <;> cases h
  all_goals
    simp only [encode, Instr.fixedBits, and_mask_all, and_mask_txn, fieldT_wordXYN, fieldX_wordXYN, fieldN_wordXYN]
    congr 1
    bv_omega

theorem encode_of_decodeE (h : decodeE x kk = .ok i) : encode i = wordXKK 0xE#4 x kk &&& i.fixedBits := by
  unfold decodeE at h
  split at h <;> cases h
  all_goals
    simp only [encode, Instr.fixedBits, and_mask_all]
    congr 1
    bv_omega

theorem encode_of_decodeF (h : decodeF x kk = .ok i) : encode i = wordXKK 0xF#4 x kk &&& i.fixedBits := by
  unfold decodeF at h
  split at h <;> cases h
  all_goals
    simp only [encode, Instr.fixedBits, and_mask_all]
    congr 1
    bv_omega

/-- The encoding of a decoded word agrees with the word on the bits the instruction fixes. The case `h_k` is that of
primary opcode `k - 1`. -/
theorem encode_of_decodeWord (h : decodeWord w = .ok i) : encode i = w &&& i.fixedBits := by
  unfold decodeWord at h
  split at h
  case h_1 ht => rw [encode_of_decode0 h, wordNNN_of_fieldT ht]
  case h_9 ht => rw [encode_of_decode8 h, wordXYN_of_fieldT ht rfl]
  case h_15 ht => rw [encode_of_decodeE h, wordXKK_of_fieldT ht]
  case h_16 =>
    have ht : (fieldT w).toNat = 0xF := by
      simp only [imp_false] at *
      omega
    rw [encode_of_decodeF h, wordXKK_of_fieldT ht]
  case h_6 ht | h_10 ht =>
    split at h <;> cases h
    rename_i hn
    exact (wordXYN_of_fieldT ht hn).trans (and_mask_all w).symm
  case h_2 ht | h_3 ht | h_11 ht | h_12 ht =>
    cases h
    exact (wordNNN_of_fieldT ht).trans (and_mask_all w).symm
  case h_4 ht | h_5 ht | h_7 ht | h_8 ht | h_13 ht =>
    cases h
    exact (wordXKK_of_fieldT ht).trans (and_mask_all w).symm
  case h_14 ht =>
    cases h
    exact (wordXYN_of_fieldT ht rfl).trans (and_mask_all w).symm

end Decoded

/-- Settles O2: `encode_of_decodeWord`, the shifts being the instructions that do not fix every bit. -/
theorem encodeReturnsTheDecodedWord : Obligations.EncodeReturnsTheDecodedWord := by
  intro w i h
  have he := encode_of_decodeWord h
  constructor
  · intro hi
    rwa [fixedBits_of_not_shift hi, and_mask_all] at he
  · rintro ⟨x, rfl | rfl⟩ <;> exact he

/-! ### The row of a decoded word -/

/-- One instruction of each row, in the order of the table. -/
def oneOfEachRow : List Instr :=
  [.cls, .ret, .jp 0, .call 0, .seImm 0 0, .sneImm 0 0, .seReg 0 0, .ldImm 0 0, .addImm 0 0,
    .ldReg 0 0, .orReg 0 0, .andReg 0 0, .xorReg 0 0, .addReg 0 0, .subReg 0 0, .shr 0, .subnReg 0 0, .shl 0, .sneReg 0 0,
    .ldI 0, .jpV0 0, .rnd 0 0, .drw 0 0 0,
    .skp 0, .sknp 0, .ldVxDt 0, .ldVxK 0, .ldDtVx 0, .ldStVx 0, .addI 0, .ldF 0, .ldB 0, .ldMemVx 0, .ldVxMem 0]

theorem map_row_oneOfEachRow : oneOfEachRow.map Instr.row = rows := rfl

theorem row_mem_rows (i : Instr) : i.row ∈ rows := by
  cases i <;> simp [Instr.row, rows, rows0to7, rows8and9, rowsAtoD, rowsEandF]

open Laws.MatchesRow in
/-- The encoding of every instruction selects the instruction's row. -/
theorem encode_and_mask : ∀ i : Instr, encode i &&& i.row.mask = i.row.pattern
  | .cls => cls | .ret => ret | .jp _ => jp _ | .call _ => call _
  | .seImm _ _ => seImm _ _ | .sneImm _ _ => sneImm _ _ | .seReg _ _ => seReg _ _
  | .ldImm _ _ => ldImm _ _ | .addImm _ _ => addImm _ _
  | .ldReg _ _ => ldReg _ _ | .orReg _ _ => orReg _ _ | .andReg _ _ => andReg _ _ | .xorReg _ _ => xorReg _ _
  | .addReg _ _ => addReg _ _ | .subReg _ _ => subReg _ _ | .shr _ => shr _ | .subnReg _ _ => subnReg _ _
  | .shl _ => shl _ | .sneReg _ _ => sneReg _ _
  | .ldI _ => ldI _ | .jpV0 _ => jpV0 _ | .rnd _ _ => rnd _ _ | .drw _ _ _ => drw _ _ _
  | .skp _ => skp _ | .sknp _ => sknp _ | .ldVxDt _ => ldVxDt _ | .ldVxK _ => ldVxK _ | .ldDtVx _ => ldDtVx _
  | .ldStVx _ => ldStVx _ | .addI _ => addI _ | .ldF _ => ldF _ | .ldB _ => ldB _ | .ldMemVx _ => ldMemVx _
  | .ldVxMem _ => ldVxMem _

section Selection
variable {w p : Word} {i : Instr}

/-- An instruction fixes the bits its row is selected by. -/
theorem fixedBits_and_mask (i : Instr) : i.fixedBits &&& i.row.mask = i.row.mask := by
  cases i <;> simp only [Instr.fixedBits, Instr.row] <;> rfl

theorem row_selects_of_decodeWord (h : decodeWord w = .ok i) : i.row.selects w = true := by
  rw [Row.selects, beq_iff_eq, ← encode_and_mask, encode_of_decodeWord h, BitVec.and_assoc, fixedBits_and_mask]

theorem fieldT_of_mask (h : w &&& 0xF000#16 = p) : fieldT w = fieldT p := by
  rw [← h, and_mask_t, fieldT_wordNNN]

theorem fieldTN_of_mask (h : w &&& 0xF00F#16 = p) : fieldT w = fieldT p ∧ fieldN w = fieldN p := by
  rw [← h, and_mask_tn, fieldT_wordXYN, fieldN_wordXYN]
  exact ⟨rfl, rfl⟩

theorem fieldTKK_of_mask (h : w &&& 0xF0FF#16 = p) : fieldT w = fieldT p ∧ fieldKK w = fieldKK p := by
  rw [← h, and_mask_tkk, fieldT_wordXKK, fieldKK_wordXKK]
  exact ⟨rfl, rfl⟩

/-- A word that selects the row of an instruction decodes to an instruction of that row: the mask keeps the fields the
decoder looks at. -/
theorem decodeWord_of_row_selects (h : i.row.selects w = true) : (decodeWord w).map Instr.row = .ok i.row := by
  replace h : w &&& i.row.mask = i.row.pattern := beq_iff_eq.mp h
  cases i with
  | cls | ret =>
    obtain rfl := (and_mask_all w).symm.trans h
    rfl
  | jp | call | seImm | sneImm | ldImm | addImm | ldI | jpV0 | rnd | drw =>
    rw [decodeWord, fieldT_of_mask h]
    simp [fieldT, Except.map, Instr.row]
  | seReg | sneReg =>
    obtain ⟨ht, hn⟩ := fieldTN_of_mask h
    rw [decodeWord, ht, hn]
    simp [fieldT, fieldN, Except.map, Instr.row]
  | ldReg | orReg | andReg | xorReg | addReg | subReg | shr | subnReg | shl =>
    simp only [Instr.row] at h ⊢
    obtain ⟨ht, hn⟩ : fieldT w = 0x8#4 ∧ _ := fieldTN_of_mask h
    rw [← wordXYN_fields w, ht, hn, decodeWord_wordXYN_8]
    rfl
  | skp | sknp =>
    simp only [Instr.row] at h ⊢
    obtain ⟨ht, hkk⟩ : fieldT w = 0xE#4 ∧ _ := fieldTKK_of_mask h
    rw [← wordXKK_fields w, ht, hkk, decodeWord_wordXKK_E]
    rfl
  | ldVxDt | ldVxK | ldDtVx | ldStVx | addI | ldF | ldB | ldMemVx | ldVxMem =>
    simp only [Instr.row] at h ⊢
    obtain ⟨ht, hkk⟩ : fieldT w = 0xF#4 ∧ _ := fieldTKK_of_mask h
    rw [← wordXKK_fields w, ht, hkk, decodeWord_wordXKK_F]
    rfl

theorem exists_decodeWord_of_selects {r : Row} (hr : r ∈ rows) (h : r.selects w = true) :
    ∃ i, decodeWord w = .ok i ∧ i.row = r := by
  rw [← map_row_oneOfEachRow] at hr
  obtain ⟨j, -, rfl⟩ := List.mem_map.mp hr
  have hj := decodeWord_of_row_selects h
  cases hd : decodeWord w with
  | ok i =>
    rw [hd] at hj
    exact ⟨i, rfl, Except.ok.inj hj⟩
  | error e =>
    rw [hd] at hj
    cases hj

end Selection

/-- Settles O3: two rows that a word selects are both the row of the one instruction it decodes to. -/
theorem decoderSelectsTheOneMatchingRow : Obligations.DecoderSelectsTheOneMatchingRow := by
  refine ⟨rfl, fun w => ⟨fun r hr r' hr' h h' => ?_, fun r => exists_decodeWord_of_selects,
    fun i hi => ⟨row_mem_rows i, row_selects_of_decodeWord hi⟩⟩⟩
  obtain ⟨i, hi, rfl⟩ := exists_decodeWord_of_selects hr h
  obtain ⟨j, hj, rfl⟩ := exists_decodeWord_of_selects hr' h'
  cases hi.symm.trans hj
  rfl

/-! ### Refused words -/

section Refused
variable {w : Word} {x y : Reg} {n : Nibble} {kk : Byte}

theorem decode0_error_iff :
    (∃ e, decode0 w = .error e) ↔ fieldNNN w ≠ 0x0E0#12 ∧ fieldNNN w ≠ 0x0EE#12 := by
  unfold decode0
  split <;> simp_all [← BitVec.toNat_inj]

theorem decode8_error_iff :
    (∃ e, decode8 x y n = .error e) ↔ n ∈ [0x8#4, 0x9#4, 0xA#4, 0xB#4, 0xC#4, 0xD#4, 0xF#4] := by
  unfold decode8
  split <;> simp_all [← BitVec.toNat_inj]
  omega

theorem decodeE_error_iff : (∃ e, decodeE x kk = .error e) ↔ kk ∉ [0x9E#8, 0xA1#8] := by
  unfold decodeE
  split <;> simp_all [← BitVec.toNat_inj]

theorem decodeF_error_iff : (∃ e, decodeF x kk = .error e) ↔
    kk ∉ [0x07#8, 0x0A#8, 0x15#8, 0x18#8, 0x1E#8, 0x29#8, 0x33#8, 0x55#8, 0x65#8] := by
  unfold decodeF
  split <;> simp_all [← BitVec.toNat_inj]

end Refused

/-- Settles O4: the primary opcode excludes all classes but its own, and the table of its secondary digits decides that
one. The case `h_k` is that of primary opcode `k - 1`. -/
theorem illegalWordsAreTheSixClasses : Obligations.IllegalWordsAreTheSixClasses := by
  intro w
  have hT (k : Nibble) : fieldT w = k ↔ (fieldT w).toNat = k.toNat := BitVec.toNat_inj.symm
  unfold decodeWord
  split
  case h_16 =>
    have ht : (fieldT w).toNat = 0xF := by
      simp only [imp_false] at *
      omega
    simp [hT, ht, decodeF_error_iff]
  case h_6 ht | h_10 ht =>
    split <;> simp_all
  all_goals
    rename_i ht
    simp [hT, ht, decode0_error_iff, decode8_error_iff, decodeE_error_iff]

/-! ### The shifts and their ignored field -/

section Shifts
variable {s : State} {x y : Reg}

theorem setReg_comm {b c : Byte} (h : x ≠ y) : (s.setReg x b).setReg y c = (s.setReg y c).setReg x b :=
  congrArg s.setV (Vector.set_comm b c (fun e => h (BitVec.eq_of_toNat_eq e)))

/-- An instruction that sets the flag and then the result, both found from `V[x]` alone, neither reads nor writes another
register. -/
theorem ignores_of_flagThenResult {i : Instr} {c : Byte → Bool} {r : Byte → Byte}
    (hi : ∀ u, exec i u = .next (u.flagThenResult x (c (u.reg x)) (r (u.reg x)))) (hx : y ≠ x) (hf : y ≠ vf) (b : Byte) :
    ∃ t, exec i s = .next t ∧ t.reg y = s.reg y ∧ exec i (s.setReg y b) = .next (t.setReg y b) := by
  refine ⟨_, hi s, ?_, ?_⟩
  · rw [State.reg_flagThenResult, if_neg hx, if_neg hf]
  · rw [hi, State.reg_setReg, if_neg hx.symm]
    simp only [State.flagThenResult, State.setFlag]
    rw [setReg_comm hf, setReg_comm hx]

end Shifts

/-- Settles O5: the decoder does not look at `y`, and `ignores_of_flagThenResult`. -/
theorem shiftsIgnoreTheYField : Obligations.ShiftsIgnoreTheYField := by
  intro x y
  refine ⟨decodeWord_wordXYN_8 x y _, decodeWord_wordXYN_8 x y _, fun s b hx hf => ⟨?_, ?_⟩⟩
  · exact ignores_of_flagThenResult (c := shiftedOutRight) (r := (· >>> 1)) (fun _ => rfl) hx hf b
  · exact ignores_of_flagThenResult (c := shiftedOutLeft) (r := (· <<< 1)) (fun _ => rfl) hx hf b

/-- Settles O6: the decoder computes. -/
theorem sampleWordsDecode : Obligations.SampleWordsDecode := by
  unfold Obligations.SampleWordsDecode
  decide

end Sys2Proof

/-! PROOFS. The statements of the family 40_cycle.md. What the step answers after each outcome of the fetch and the decoding,
and what the tick and the key wait do to a value; the statements are put together from these. -/

namespace Sys2Proof

open Sys2Proof.Machine

/-! ### The step, by what the fetch and the decoding find -/

section Phases
variable {s t : State} {i : Instr}

theorem step_of_halted (h : s.halted = true) : step s = .fault (.halted s.fault) := by
  simp [step, h, reportFault]

theorem step_of_fetch_beyond (hs : s.halted = false) (h : s.fetchAddr.toNat + 1 > 0xFFF) :
    step s = .next (s.enterFault (fetchFault s.fetchAddr)) := by
  simp [step, hs, fetchDecode, h]

theorem step_of_decode_error {e : Reject} (hs : s.halted = false) (ha : s.fetchAddr.toNat + 1 ≤ 0xFFF)
    (hd : decodeWord (s.wordAt s.fetchAddr.toNat) = .error e) :
    step s = .next (s.enterFault (decodeFault (s.wordAt s.fetchAddr.toNat) s.fetchAddr)) := by
  simp [step, hs, fetchDecode, Nat.not_lt.mpr ha, State.fetchBytes, decode_two_error [] hd]

theorem Runs.step_eq_finish (hr : Runs s i) : step s = finish s (exec i s.latched) := by
  obtain ⟨t, ht⟩ := exec_isNext i s.latched
  rw [step_of_runs hr ht, ht, finish]

/-- The decoder takes the two bytes at `a` as the word there, and nothing is left over. -/
theorem decode_fetchBytes_eq_ok {a : Nat} {rest : List Byte} (h : decode (s.fetchBytes a) = .ok (i, rest)) :
    decodeWord (s.wordAt a) = .ok i ∧ rest = [] := by
  cases hd : decodeWord (s.wordAt a) with
  | ok j =>
    cases (decode_two_ok [] hd).symm.trans h
    exact ⟨rfl, rfl⟩
  | error e => cases (decode_two_error [] hd).symm.trans h

/-- A word that selects no row is refused: an instruction's word would select the instruction's row. -/
theorem decodeWord_error_of_no_row {w : Word} (h : ∀ r ∈ rows, r.selects w = false) : ∃ e, decodeWord w = .error e := by
  cases hd : decodeWord w with
  | error e => exact ⟨e, rfl⟩
  | ok i =>
    have hrow := row_selects_of_decodeWord hd
    rw [h _ (row_mem_rows i)] at hrow
    cases hrow

theorem toNat_addr_fetchFault {a : Word} (h : a.toNat + 1 > 0xFFF) :
    (fetchFault a).addr.toNat = max a.toNat 0x1000 := by
  simp only [fetchFault]
  split
  · omega
  · rw [BitVec.toNat_ofNat]
    omega

/-- A fault of the execute phase records the word. -/
theorem opcodeValid_of_exec (h : exec i s = .next t) (hs : s.halted = false) (ht : t.halted = true) :
    t.fault.opcodeValid = true := by
  rcases exec_cases i s with ⟨u, e, hh, -⟩ | ⟨k, a, e, -⟩ <;> cases e.symm.trans h
  · rw [hh, hs] at ht
    cases ht
  · rfl

end Phases

/-- Settles O33: beyond memory the fetch raises; inside it a fault is that of the decoding or of the execute phase, and both
record the word. -/
theorem fetchBeyondMemoryFaults : Obligations.FetchBeyondMemoryFaults := by
  intro s hs
  refine ⟨fun h => ⟨_, step_of_fetch_beyond hs h, rfl, rfl, rfl, toNat_addr_fetchFault h,
    onlyChanges_enterFault (by simp) (by simp)⟩, fun h => ?_⟩
  rcases step_cases s with ⟨hh, -⟩ | ⟨-, ha, -⟩ | ⟨-, -, -, e⟩ | ⟨-, -, i, t, -, ht, e⟩
  · simp [hs] at hh
  · omega
  · exact ⟨_, e, fun _ => rfl⟩
  · refine ⟨_, e, ?_⟩
    have hv := opcodeValid_of_exec ht hs
    split
    · exact fun _ => hv ‹_›
    · exact fun hh => absurd hh ‹_›

/-- Settles O34: the decoder refuses a word that selects no row. -/
theorem illegalWordFaults : Obligations.IllegalWordFaults := by
  intro s hs ha h
  obtain ⟨e, hd⟩ := decodeWord_error_of_no_row h
  exact ⟨_, step_of_decode_error hs ha hd, rfl, rfl, onlyChanges_enterFault (by simp) (by simp)⟩

/-- Settles O31: the two bytes decode as the word they make, so the step runs `i` from the latched state; its execute phase
and the tick leave the latch. -/
theorem stepRunsTheDecodedInstruction : Obligations.StepRunsTheDecodedInstruction := by
  intro s i rest hs ha h
  obtain ⟨hd, hrest⟩ := decode_fetchBytes_eq_ok h
  have hr : Runs s i := ⟨hs, ha, hd⟩
  refine ⟨wellFormed_all i, hrest, rfl, rfl, fun a => ?_, fun t hc => ?_, onlyChanges_latched (by simp) (by simp),
    hr.step_eq_finish⟩
  · rw [State.wordAt, toNat_wordOfBytes, Nat.mul_comm]
  · obtain ⟨u, hu, hh, rfl⟩ := completes_cases hc hr
    obtain ⟨-, -, hop, -⟩ := exec_completed hu hh
    exact hop

/-! ### The tick -/

theorem toNat_tickDelay (b : Byte) : (tickDelay b).toNat = if b.toNat > 0 then b.toNat - 1 else b.toNat := by
  unfold tickDelay
  split <;> bv_omega

theorem toNat_tickSound (b : Byte) : (tickSound b).toNat = if b.toNat > 1 then b.toNat - 1 else b.toNat := by
  unfold tickSound
  split <;> bv_omega

/-- Settles O35: the step ends in the state the execute phase left, ticked. -/
theorem everyCompletedStepTicks : Obligations.EveryCompletedStepTicks := by
  intro s i t hr ht hh
  exact ⟨t.tick, hr.completes ht hh, toNat_tickDelay t.dt, toNat_tickSound t.st, onlyChanges_tick (by simp) (by simp)⟩

/-! ### The key wait -/

/-- With no key pressed Fx0A rewinds `pc` and does nothing else (45_keypad_timers.md R242). -/
theorem execLdVxK_of_no_key {s : State} (x : Reg) (h : s.key = 0#16) :
    exec (.ldVxK x) s = .next (s.setPc (s.pc - 2#16)) := by
  obtain ⟨t, ht⟩ := exec_isNext (.ldVxK x) s
  obtain ⟨hk, -⟩ | ⟨-, rfl⟩ := execLdVxK_next ht
  · exact absurd h hk
  · exact ht

/-- An instruction is run again when the address it was fetched at and memory are as before. -/
theorem Runs.of_same_fetch {s t : State} {i : Instr} (hr : Runs s i) (hh : t.halted = false) (hpc : t.pc = s.pc)
    (hmem : t.mem = s.mem) : Runs t i := by
  obtain ⟨-, ha, hd⟩ := hr
  have hf : t.fetchAddr = s.fetchAddr := congrArg (· + 2#16) hpc
  have hw (a : Nat) : t.wordAt a = s.wordAt a := by simp only [State.wordAt, State.readByte, hmem]
  exact ⟨hh, hf ▸ ha, by rw [hf, hw, hd]⟩

/-- Settles O36: the rewind undoes the advance of the fetch, so the same word is fetched again. -/
theorem keyWaitStalls : Obligations.KeyWaitStalls := by
  intro s x hr hk
  have hc : Completes s (s.latched.setPc (s.fetchAddr - 2#16)).tick :=
    hr.completes (execLdVxK_of_no_key x hk) hr.1
  have hpc : s.fetchAddr - 2#16 = s.pc := BitVec.add_sub_cancel s.pc 2#16
  rw [hpc] at hc
  refine ⟨_, hc, rfl, rfl, ?_, toNat_tickSound s.st, ?_, hr.of_same_fetch hc.2 rfl rfl⟩
  · refine (toNat_tickDelay s.dt).trans ?_
    split <;> omega
  · have latch : OnlyChanges (· ∈ [.opcode, .dt, .st]) s (s.latched.setPc s.pc) :=
      onlyChanges_setOpcode (w := s.wordAt s.fetchAddr.toNat) (by simp)
    exact latch.trans (onlyChanges_tick (by simp) (by simp))

/-- Settles O37: a halted unit's step is the report of its record. -/
theorem haltedStepReportsTheRecordAgain : Obligations.HaltedStepReportsTheRecordAgain :=
  fun _ => step_of_halted

end Sys2Proof

/-! PROOFS. The statements of the family 41_control_flow.md. A jump is a write of `pc` whose target, at most 0x10FE, is
fetched two bytes further; the stack transfers are that with one operation of the stack; the four skips are one lemma for
the execute phase and one for the step. -/

namespace Sys2Proof

open Sys2Proof.Machine

/-! ### Targets -/

section Targets
variable (nnn : Addr12) {s : State}

@[simp] theorem toNat_addrOf : (addrOf nnn).toNat = nnn.toNat := by
  simp only [addrOf]
  bv_omega

/-- The sum of Bnnn does not wrap (R157). -/
theorem toNat_wordOf_add_addrOf (b : Byte) : (wordOf b + addrOf nnn).toNat = b.toNat + nnn.toNat := by
  simp only [wordOf, addrOf]
  bv_omega

/-- After a jump to an address of 12 bits the next fetch is two bytes further (10_state.md R26). -/
theorem toNat_fetchAddr_setPc_addrOf : (s.setPc (addrOf nnn)).fetchAddr.toNat = nnn.toNat + 2 := by
  have hpc : (s.setPc (addrOf nnn)).pc.toNat = nnn.toNat := toNat_addrOf nnn
  rw [toNat_fetchAddr (by omega), hpc]

end Targets

/-! ### Calls and returns -/

section Stack
variable {s : State}

theorem onlyChanges_call {j : Fin 16} {k : Fin 17} {w a : Word} :
    OnlyChanges (· ∈ [.stack j, .sp, .pc]) s (((s.setStack (s.stack.set j.val w j.isLt)).setSp k).setPc a) :=
  ((onlyChanges_setStack (by simp)).trans (onlyChanges_setSp (by simp))).trans (onlyChanges_setPc (by simp))

theorem onlyChanges_return {k : Fin 17} {a : Word} : OnlyChanges (· ∈ [.sp, .pc]) s ((s.setSp k).setPc a) :=
  (onlyChanges_setSp (by simp)).trans (onlyChanges_setPc (by simp))

/-- An execute phase that raises with `pc` as the address reports the address of its instruction. -/
theorem raises_at_pc {i : Instr} {k : FaultKind} (h : exec i s = raise k s.pc s) : Raises i s k s.pc.toNat :=
  raises_of_eq h (by simp)

theorem execCall_of_full (nnn : Addr12) (h : s.sp.val = 16) : exec (.call nnn) s = raise .stackOverflow s.pc s := by
  simp only [exec, execCall, State.push_full h]

theorem execRet_of_empty (h : s.sp.val = 0) : exec .ret s = raise .stackUnderflow s.pc s := by
  simp only [exec, execRet, State.pop_empty h]

end Stack

/-- Settles O12: the slot written is that of `sp`; without one the push fails and the call raises. -/
theorem callPushesItsOwnAddress : Obligations.CallPushesItsOwnAddress := by
  intro nnn
  refine ⟨decodeWord_encode (.call nnn), fun s => ⟨fun hfree => ?_, fun hfull => ?_⟩⟩
  · obtain ⟨j, k, hj, hk, e⟩ := execCall_of_free nnn hfree
    have hslot := (State.stackAt_setStack_set s j j s.pc).trans (if_pos rfl)
    exact ⟨_, j, e, hj, hslot, hk, toNat_addrOf nnn, toNat_fetchAddr_setPc_addrOf nnn, onlyChanges_call⟩
  · exact raises_at_pc (execCall_of_full nnn hfull)

/-- Settles O13: the entry read is the last in use, and the array is left out of the frame; without one the pop fails and
the return raises. -/
theorem returnPopsTheLastEntry : Obligations.ReturnPopsTheLastEntry := by
  refine ⟨decodeWord_encode .ret, fun s => ⟨fun hused => ?_, fun hempty => ?_⟩⟩
  · obtain ⟨j, k, hj, hk, e⟩ := execRet_of_inUse hused
    exact ⟨_, j, e, hj, hk, rfl, onlyChanges_return⟩
  · exact raises_at_pc (execRet_of_empty hempty)

/-- Settles O11: neither target wraps, so the next fetch is two bytes further as a number. -/
theorem jumpsWriteTheTargetUnadjusted : Obligations.JumpsWriteTheTargetUnadjusted := by
  intro nnn
  refine ⟨decodeWord_encode (.jp nnn), decodeWord_encode (.jpV0 nnn), fun s => ⟨?_, ?_⟩⟩
  · have hfetch : (s.setPc (addrOf nnn)).fetchAddr.toNat = nnn.toNat + 2 := toNat_fetchAddr_setPc_addrOf nnn
    exact ⟨_, rfl, toNat_addrOf nnn, hfetch, by omega, onlyChanges_setPc rfl⟩
  · have hpc : (s.setPc (wordOf s.v0 + addrOf nnn)).pc.toNat = (s.reg 0#4).toNat + nnn.toNat :=
      toNat_wordOf_add_addrOf nnn s.v0
    have hfetch : (s.setPc (wordOf s.v0 + addrOf nnn)).fetchAddr.toNat = (s.reg 0#4).toNat + nnn.toNat + 2 := by
      rw [toNat_fetchAddr (by omega), hpc]
    exact ⟨_, rfl, hpc, hfetch, by omega, onlyChanges_setPc rfl⟩

/-! ### Skips -/

section Skips
variable {i : Instr} {s : State} {c : Bool}

/-- The execute phase of a skip: `v` is the address of the instruction, 2 further when the skip is taken. -/
theorem exec_skip {v : Word} (hi : exec i s = .next (s.skipIf c)) (hv : skipTo c s.pc = v) :
    ∃ t, exec i s = .next t ∧ t.pc = v ∧ OnlyChanges (· = .pc) s t :=
  ⟨_, hi, (pc_skipIf s c).trans hv, onlyChanges_skipIf rfl⟩

/-- The step of a skip: the advance of the fetch makes the distance 4 when the skip is taken and 2 when not. -/
theorem Runs.skip_completes {d : Word} (hr : Runs s i) (hi : exec i s.latched = .next (s.latched.skipIf c))
    (hd : (if c then 4#16 else 2#16) = d) : ∃ t, Completes s t ∧ t.pc = s.pc + d := by
  have hh : (s.latched.skipIf c).halted = false := by
    rw [State.skipIf_eq]
    exact hr.1
  refine ⟨_, hr.completes hi hh, (pc_skipIf s.latched c).trans ?_⟩
  subst hd
  change skipTo c (s.pc + 2#16) = _
  cases c
  · rfl
  · exact BitVec.add_assoc s.pc 2#16 2#16

end Skips

/-- Settles O14: both are skips on `V[x] = kk`, the second on its negation. -/
theorem immediateSkipsAddTwo : Obligations.ImmediateSkipsAddTwo := by
  intro x kk
  refine ⟨decodeWord_encode (.seImm x kk), decodeWord_encode (.sneImm x kk), fun s => ⟨?_, ?_, fun hr => ?_, fun hr => ?_⟩⟩
  · exact exec_skip rfl (by simp [skipTo])
  · exact exec_skip rfl (by simp [skipTo])
  · exact hr.skip_completes (c := s.reg x == kk) rfl (by simp)
  · exact hr.skip_completes (c := s.reg x != kk) rfl (by simp)

/-- 5xyn and 9xyn with `n` not 0 are no instructions (30_encoding.md R100). -/
theorem decodeWord_wordXYN_5_9_error {x y : Reg} {n : Nibble} (hn : n ≠ 0#4) :
    (∃ e, decodeWord (wordXYN 0x5#4 x y n) = .error e) ∧ ∃ e, decodeWord (wordXYN 0x9#4 x y n) = .error e := by
  simp [decodeWord, hn]

/-- Settles O15: both are skips on `V[x] = V[y]`, the second on its negation. -/
theorem registerSkipsAddTwo : Obligations.RegisterSkipsAddTwo := by
  intro x y
  refine ⟨decodeWord_encode (.seReg x y), decodeWord_encode (.sneReg x y), fun n => decodeWord_wordXYN_5_9_error,
    fun s => ⟨?_, ?_, fun hr => ?_, fun hr => ?_⟩⟩
  · exact exec_skip rfl (by simp [skipTo])
  · exact exec_skip rfl (by simp [skipTo])
  · exact hr.skip_completes (c := s.reg x == s.reg y) rfl (by simp)
  · exact hr.skip_completes (c := s.reg x != s.reg y) rfl (by simp)

end Sys2Proof

/-! PROOFS. The statements of the family 42_load_alu.md. Each execute phase is one of three writes: a register; a result and
then a flag; a flag and then a result. One lemma says what each leaves, and the bytes written are found as numbers apart. -/

namespace Sys2Proof

open Sys2Proof.Machine

/-! ### The bytes written, as numbers -/

section Bytes
variable (p q : Byte)

theorem toNat_byte_sub : (p - q).toNat = (256 + p.toNat - q.toNat) % 256 := by
  rw [BitVec.toNat_sub]
  omega

theorem toNat_byte_shiftRight_one : (p >>> 1).toNat = p.toNat / 2 := Nat.shiftRight_eq_div_pow p.toNat 1

theorem toNat_byte_shiftLeft_one : (p <<< 1).toNat = p.toNat * 2 % 256 := by
  rw [BitVec.toNat_shiftLeft, Nat.shiftLeft_eq]

theorem flagByte_carryOut : flagByte (carryOut p q) = if p.toNat + q.toNat > 255 then 0x01#8 else 0x00#8 := by
  simp [flagByte, carryOut]

theorem flagByte_noBorrow : flagByte (noBorrow p q) = if p.toNat ≥ q.toNat then 0x01#8 else 0x00#8 := by
  simp [flagByte, noBorrow]

theorem toNat_flagByte (c : Bool) : (flagByte c).toNat = c.toNat := by cases c <;> rfl

theorem toNat_flagByte_shiftedOutRight : (flagByte (shiftedOutRight p)).toNat = p.toNat % 2 := by
  rw [toNat_flagByte, shiftedOutRight, BitVec.getLsbD, Nat.toNat_testBit]
  omega

theorem toNat_flagByte_shiftedOutLeft : (flagByte (shiftedOutLeft p)).toNat = p.toNat / 128 := by
  rw [toNat_flagByte, shiftedOutLeft, BitVec.getLsbD, Nat.toNat_testBit]
  omega

end Bytes

/-! ### The three forms of a write -/

section Writes
variable {i : Instr} {s : State} {x : Reg} {r : Byte} {c : Bool}

theorem reg_setReg_same (s : State) (x : Reg) (r : Byte) : (s.setReg x r).reg x = r := by
  rw [State.reg_setReg, if_pos rfl]

theorem exec_setReg (hi : exec i s = .next (s.setReg x r)) :
    ∃ t, exec i s = .next t ∧ t.reg x = r ∧ OnlyChanges (· = .reg x) s t :=
  ⟨_, hi, reg_setReg_same s x r, onlyChanges_setReg rfl⟩

/-- The flag is written last, so the result stands only in a register other than VF. -/
theorem exec_resultThenFlag {n : Nat} {f : Byte} (hi : exec i s = .next (s.resultThenFlag x r c)) (hr : r.toNat = n)
    (hf : flagByte c = f) :
    ∃ t, exec i s = .next t ∧ (x ≠ vf → (t.reg x).toNat = n) ∧ t.reg vf = f ∧
      OnlyChanges (· ∈ [.reg x, .reg vf]) s t := by
  refine ⟨_, hi, fun hx => ?_, ?_, onlyChanges_resultThenFlag (by simp) (by simp)⟩
  · rw [State.reg_resultThenFlag, if_neg hx, if_pos rfl, hr]
  · rw [State.reg_resultThenFlag, if_pos rfl, hf]

/-- The result is written last, so the flag stands only where the result is in a register other than VF. -/
theorem exec_flagThenResult {n m : Nat} (hi : exec i s = .next (s.flagThenResult x c r)) (hr : r.toNat = n)
    (hf : (flagByte c).toNat = m) :
    ∃ t, exec i s = .next t ∧ (t.reg x).toNat = n ∧ (x ≠ vf → (t.reg vf).toNat = m) ∧
      OnlyChanges (· ∈ [.reg x, .reg vf]) s t := by
  refine ⟨_, hi, ?_, fun hx => ?_, onlyChanges_flagThenResult (by simp) (by simp)⟩
  · rw [State.reg_flagThenResult, if_pos rfl, hr]
  · rw [State.reg_flagThenResult, if_neg hx.symm, if_pos rfl, hf]

end Writes

/-! ### Loads -/

/-- Settles O16: both write one register; 7x00 adds 0 to it. -/
theorem loadsWriteTheirRegister : Obligations.LoadsWriteTheirRegister := by
  intro x y kk
  refine ⟨decodeWord_encode (.ldImm x kk), decodeWord_encode (.ldReg x y), fun s => ⟨?_, exec_setReg rfl⟩⟩
  obtain ⟨t, ht, hreg, hframe⟩ := exec_setReg (i := .ldImm x kk) (s := s) rfl
  refine ⟨t, ht, hreg, hframe, _, rfl, ?_⟩
  rw [reg_setReg_same, hreg, BitVec.add_zero]

/-- Settles O22: the byte AND `kk` goes into `V[x]`, and the counter moves on. -/
theorem randomIsMasked : Obligations.RandomIsMasked := by
  intro x kk
  refine ⟨decodeWord_encode (.rnd x kk), fun s => ?_⟩
  have hreg : (s.loadRandom x kk s.random).reg x = Config.randomByte s.draws &&& kk := reg_setReg_same s x _
  refine ⟨_, rfl, hreg, fun b hb => ?_, rfl, (onlyChanges_setReg (by simp)).trans (onlyChanges_setDraws (by simp))⟩
  rw [hreg, BitVec.getLsbD_and, hb, Bool.and_false]

/-! ### Operations without a flag -/

/-- Settles O17: the sum of bytes is the sum modulo 256. -/
theorem addImmediateWrapsWithoutFlag : Obligations.AddImmediateWrapsWithoutFlag := by
  intro x kk
  refine ⟨decodeWord_encode (.addImm x kk), fun s => ?_⟩
  obtain ⟨t, ht, hreg, hframe⟩ := exec_setReg (i := .addImm x kk) (s := s) rfl
  exact ⟨t, ht, by rw [hreg, BitVec.toNat_add], hframe⟩

/-- Settles O18: each bit of the register written is that of the operation on the bytes. -/
theorem logicalOperationsAreBitwise : Obligations.LogicalOperationsAreBitwise := by
  intro x y
  refine ⟨decodeWord_encode (.orReg x y), decodeWord_encode (.andReg x y), decodeWord_encode (.xorReg x y),
    fun s => ⟨?_, ?_, ?_⟩⟩
  · exact ⟨_, rfl, onlyChanges_setReg rfl, fun b _ => by rw [reg_setReg_same, BitVec.getLsbD_or]⟩
  · exact ⟨_, rfl, onlyChanges_setReg rfl, fun b _ => by rw [reg_setReg_same, BitVec.getLsbD_and]⟩
  · exact ⟨_, rfl, onlyChanges_setReg rfl, fun b _ => by rw [reg_setReg_same, BitVec.getLsbD_xor]⟩

/-! ### Operations with a flag -/

/-- Settles O19: the sum, then the carry. -/
theorem addSetsTheCarry : Obligations.AddSetsTheCarry := by
  intro x y
  refine ⟨decodeWord_encode (.addReg x y), fun s => ?_⟩
  obtain ⟨t, ht, hreg, hflag, hframe⟩ :=
    exec_resultThenFlag (i := .addReg x y) (s := s) rfl (BitVec.toNat_add _ _) (flagByte_carryOut _ _)
  refine ⟨t, ht, hreg, fun hc => ?_, fun hc => ?_, hframe⟩
  · rw [hflag, if_pos hc]
  · rw [hflag, if_neg (Nat.not_lt.mpr hc)]

/-- Settles O20: the difference, then not-borrow of the old operands. -/
theorem subtractionsSetNotBorrow : Obligations.SubtractionsSetNotBorrow := by
  intro x y
  refine ⟨decodeWord_encode (.subReg x y), decodeWord_encode (.subnReg x y), fun s => ⟨?_, ?_⟩⟩
  · exact exec_resultThenFlag rfl (toNat_byte_sub (s.reg x) (s.reg y)) (flagByte_noBorrow (s.reg x) (s.reg y))
  · exact exec_resultThenFlag rfl (toNat_byte_sub (s.reg y) (s.reg x)) (flagByte_noBorrow (s.reg y) (s.reg x))

/-- Settles O21: the bit shifted out, then the result; the decoder does not look at `y`. -/
theorem shiftsCaptureTheBitShiftedOut : Obligations.ShiftsCaptureTheBitShiftedOut := by
  intro x y
  refine ⟨decodeWord_wordXYN_8 x y _, decodeWord_wordXYN_8 x y _, fun s => ⟨?_, ?_⟩⟩
  · exact exec_flagThenResult rfl (toNat_byte_shiftRight_one (s.reg x)) (toNat_flagByte_shiftedOutRight (s.reg x))
  · exact exec_flagThenResult rfl (toNat_byte_shiftLeft_one (s.reg x)) (toNat_flagByte_shiftedOutLeft (s.reg x))

end Sys2Proof

/-! PROOFS. The statements of the family 43_index_memory.md. Three instructions write `I`; the other three are an access in
memory of `x + 1` or three bytes from `I`, whose effect was said byte by byte for the stores above and whose fault is one
lemma for all. -/

namespace Sys2Proof

open Sys2Proof.Machine

/-! ### Accesses from `I` -/

section Accesses
variable {i : Instr} {s t : State} {x : Reg}

/-- An access that reaches above 0xFFF raises the fault with the lowest address outside (20_memory.md R66). -/
theorem raises_outOfRange {len : Nat} (hi : exec i s = inRange (s.ea 0) len s t) (hpos : 0 < len)
    (h : 0x1000 < s.index.toNat + len) : Raises i s .outOfRangeAccess (max s.index.toNat 0x1000) :=
  raises_of_eq (hi.trans (inRange_raise s t hpos h)) rfl

theorem onlyChanges_firstRegs :
    OnlyChanges (·.IsByteIn s.index.toNat (x.toNat + 1)) s
      (s.setMem (s.mem.writeList s.index.toNat (s.firstRegs (x.toNat + 1)))) :=
  onlyChanges_writeList fun _ hp => by rwa [s.length_firstRegs _ (by omega)] at hp

/-- Inside memory Fx65 loads the registers and does nothing else. -/
theorem execLdVxMem_of_le (h : s.index.toNat + x.toNat ≤ 0xFFF) :
    exec (.ldVxMem x) s = .next (s.loadRegs s.index.toNat (x.toNat + 1)) :=
  inRange_next _ _ (.inr (by simp only [State.ea]; omega))

end Accesses

/-! ### The bytes after a store, one by one -/

section Bytes
variable (s : State) (x : Reg)

theorem byteAfterRegs_add {z : Reg} (hz : z.toNat ≤ x.toNat) : s.byteAfterRegs x (s.index.toNat + z.toNat) = s.reg z := by
  rw [State.byteAfterRegs, if_pos (by omega), Nat.add_sub_cancel_left, BitVec.ofNat_toNat, BitVec.setWidth_eq]

theorem toNat_byteAfterDigits_hundreds : (s.byteAfterDigits x s.index.toNat).toNat = (s.reg x).toNat / 100 := by
  rw [State.byteAfterDigits, if_pos rfl, BitVec.toNat_ofNat]
  omega

theorem toNat_byteAfterDigits_tens :
    (s.byteAfterDigits x (s.index.toNat + 1)).toNat = (s.reg x).toNat / 10 % 10 := by
  rw [State.byteAfterDigits, if_neg (by omega), if_pos rfl, BitVec.toNat_ofNat]
  omega

theorem toNat_byteAfterDigits_units : (s.byteAfterDigits x (s.index.toNat + 2)).toNat = (s.reg x).toNat % 10 := by
  rw [State.byteAfterDigits, if_neg (by omega), if_neg (by omega), if_pos rfl, BitVec.toNat_ofNat]
  omega

end Bytes

/-- Settles O24: the store leaves the bytes of `byteAfterDigits`; beyond memory the range check raises before it. -/
theorem decimalDigitsAreStored : Obligations.DecimalDigitsAreStored := by
  intro x
  refine ⟨decodeWord_encode (.ldB x), fun s => ⟨fun hwf hin => ?_, fun hout => ?_⟩⟩
  · have hbyte := read_writeList_decimalDigits (x := x) hwf hin
    refine ⟨_, execLdB_of_le hin, ?_, ?_, ?_, onlyChanges_writeList fun _ hp => hp⟩
    · exact (congrArg BitVec.toNat (hbyte _)).trans (toNat_byteAfterDigits_hundreds s x)
    · exact (congrArg BitVec.toNat (hbyte _)).trans (toNat_byteAfterDigits_tens s x)
    · exact (congrArg BitVec.toNat (hbyte _)).trans (toNat_byteAfterDigits_units s x)
  · exact raises_outOfRange rfl (by omega) (by omega)

/-- Settles O25: the store leaves the bytes of `byteAfterRegs`; beyond memory the range check raises before it. -/
theorem registersAreStored : Obligations.RegistersAreStored := by
  intro x
  refine ⟨decodeWord_encode (.ldMemVx x), fun s => ⟨fun hwf hin => ?_, fun hout => ?_⟩⟩
  · exact ⟨_, execLdMemVx_of_le hin,
      fun z hz => (read_writeList_firstRegs hwf hin _).trans (byteAfterRegs_add s x hz), onlyChanges_firstRegs⟩
  · exact raises_outOfRange rfl (by omega) (by omega)

/-- Settles O26: the load writes the first `x + 1` registers; beyond memory the range check raises before it. -/
theorem registersAreLoaded : Obligations.RegistersAreLoaded := by
  intro x
  refine ⟨decodeWord_encode (.ldVxMem x), fun s => ⟨fun hin => ?_, fun hout => ?_⟩⟩
  · have hreg (z : Reg) := s.reg_loadRegs s.index.toNat z (x.toNat + 1) (by omega)
    exact ⟨_, execLdVxMem_of_le hin, fun z hz => (hreg z).trans (if_pos (by omega)),
      onlyChanges_loadRegs (by omega) fun z hz => ⟨z, by omega, rfl⟩⟩
  · exact raises_outOfRange rfl (by omega) (by omega)

/-! ### Writes of `I` -/

theorem exec_setIndex {i : Instr} {s : State} {w : Word} {n : Nat} (hi : exec i s = .next (s.setIndex w))
    (hw : w.toNat = n) : ∃ t, exec i s = .next t ∧ t.index.toNat = n ∧ OnlyChanges (· = .index) s t :=
  ⟨_, hi, hw, onlyChanges_setIndex rfl⟩

/-- The sum of Fx1E wraps at 2^16 (R201). -/
theorem toNat_add_wordOf (w : Word) (b : Byte) : (w + wordOf b).toNat = (w.toNat + b.toNat) % 65536 := by
  simp only [wordOf]
  bv_omega

/-- The address of Fx29, at most 0x54B, does not wrap (R202). -/
theorem toNat_glyphAddr (b : Byte) : (BitVec.ofNat 16 (Config.fontBase + 5 * b.toNat)).toNat = 0x050 + 5 * b.toNat := by
  rw [BitVec.toNat_ofNat, Config.fontBase]
  omega

/-- Settles O23: each is a write of `I`, whose value is found as a number apart. -/
theorem indexInstructionsWriteI : Obligations.IndexInstructionsWriteI := by
  intro nnn x
  refine ⟨decodeWord_encode (.ldI nnn), decodeWord_encode (.addI x), decodeWord_encode (.ldF x), fun s => ⟨?_, ?_, ?_⟩⟩
  · exact exec_setIndex rfl (toNat_addrOf nnn)
  · exact exec_setIndex rfl (toNat_add_wordOf s.index (s.reg x))
  · exact exec_setIndex rfl (toNat_glyphAddr (s.reg x))

end Sys2Proof

/-! PROOFS. The statements of the family 44_display.md. Where its sprite bytes lie in memory Dxyn completes in one named
state, whose pixels, VF and frame are said once; the loops behind it stand in closed form in Laws/Display.lean. -/

namespace Sys2Proof

open Sys2Proof.Machine

/-- Settles O7: the framebuffer written is blank. -/
theorem clearScreenBlanksEveryPixel : Obligations.ClearScreenBlanksEveryPixel :=
  ⟨rfl, fun s => ⟨_, rfl, State.pixel_blank s, onlyChanges_setVideo fun _ hp => hp⟩⟩

/-- Settles O9: the range check on the `n` sprite bytes raises before anything is drawn. -/
theorem drawBeyondMemoryFaults : Obligations.DrawBeyondMemoryFaults := by
  intro x y n s hn hout
  have hpos : 0 < n.toNat := Nat.pos_of_ne_zero fun h => hn (BitVec.eq_of_toNat_eq h)
  exact raises_outOfRange rfl hpos hout

/-! ### The state a completed draw leaves -/

/-- The state Dxyn completes in (44_display.md R221): the sprite drawn, then the collision in VF. -/
def Machine.State.afterDraw (s : State) (x y : Reg) (n : Nibble) : State :=
  (s.setVideo (s.drawn x y n).1).setFlag (s.drawn x y n).2

section Draw
variable {s : State} {x y : Reg} {n : Nibble}

theorem execDrw_of_le (h : n = 0#4 ∨ s.index.toNat + n.toNat ≤ 0x1000) :
    exec (.drw x y n) s = .next (s.afterDraw x y n) :=
  inRange_next _ _ (h.imp_left (congrArg BitVec.toNat))

@[simp] theorem pixel_afterDraw (py : Fin 32) (px : Fin 64) :
    (s.afterDraw x y n).pixel py px = (s.pixel py px ^^ s.spriteAt x y n py px) :=
  State.pixel_drawn s x y n py px

theorem reg_vf_afterDraw : (s.afterDraw x y n).reg vf = flagByte (s.drawn x y n).2 :=
  reg_setReg_same _ vf _

theorem flagByte_eq_one_iff {c : Bool} : flagByte c = 0x01#8 ↔ c = true := by cases c <;> decide

theorem reg_vf_afterDraw_eq_one_iff : (s.afterDraw x y n).reg vf = 0x01#8 ↔
    ∃ py px, s.spriteAt x y n py px = true ∧ s.pixel py px = true := by
  rw [reg_vf_afterDraw, flagByte_eq_one_iff, State.collides_drawn]

theorem reg_vf_afterDraw_eq_zero (h : ∀ py px, s.spriteAt x y n py px = true → s.pixel py px = false) :
    (s.afterDraw x y n).reg vf = 0x00#8 := by
  have hmiss : (s.drawn x y n).2 = false := by
    rw [← Bool.not_eq_true, State.collides_drawn]
    rintro ⟨py, px, hbit, hset⟩
    simp [h py px hbit] at hset
  rw [reg_vf_afterDraw, hmiss, flagByte_false]

theorem onlyChanges_afterDraw : OnlyChanges (fun p => p.IsPixel ∨ p = .reg vf) s (s.afterDraw x y n) :=
  (onlyChanges_setVideo fun _ => .inl).trans (onlyChanges_setFlag (.inr rfl))

/-- A draw leaves the sprite where it was: its bytes, `I` and the registers of its origin, unless VF is one of them. -/
theorem spriteAt_afterDraw (hx : x ≠ vf) (hy : y ≠ vf) (py : Fin 32) (px : Fin 64) :
    (s.afterDraw x y n).spriteAt x y n py px = s.spriteAt x y n py px := by
  have hreg (z : Reg) (hz : z ≠ vf) : (s.afterDraw x y n).reg z = s.reg z :=
    (State.reg_setFlag _ _ z).trans (if_neg hz)
  rw [State.spriteAt, hreg x hx, hreg y hy]
  rfl

end Draw

/-- Settles O8: the pixels, VF and the frame of `afterDraw`. -/
theorem drawXorsTheSpriteAndReportsCollision : Obligations.DrawXorsTheSpriteAndReportsCollision := by
  intro x y n
  refine ⟨decodeWord_encode (.drw x y n), fun s hin => ⟨_, execDrw_of_le hin, pixel_afterDraw, ?_, ?_, ?_⟩⟩
  · exact reg_vf_afterDraw_eq_one_iff.mpr
  · exact reg_vf_afterDraw_eq_zero
  · exact onlyChanges_afterDraw

/-- Settles O10: the second draw meets the same sprite, so it inverts the same pixels back; it collides where the first
turned a pixel on. -/
theorem drawingTwiceRestoresTheFramebuffer : Obligations.DrawingTwiceRestoresTheFramebuffer := by
  intro x y n s hx hy hin
  have hsprite := spriteAt_afterDraw (s := s) (n := n) hx hy
  have hpixel (py : Fin 32) (px : Fin 64) :
      ((s.afterDraw x y n).afterDraw x y n).pixel py px = s.pixel py px := by
    rw [pixel_afterDraw, pixel_afterDraw, hsprite, Bool.xor_assoc, Bool.xor_self, Bool.xor_false]
  refine ⟨_, _, execDrw_of_le hin, execDrw_of_le hin, hpixel, ?_, fun p hp => ?_⟩
  · rw [reg_vf_afterDraw_eq_one_iff]
    refine exists₂_congr fun py px => ?_
    rw [hsprite, pixel_afterDraw]
    refine and_congr_right fun hbit => ?_
    rw [hbit, Bool.xor_true, Bool.not_eq_true']
  · by_cases hpix : p.IsPixel
    · obtain ⟨py, px, rfl⟩ := hpix
      exact hpixel py px
    · exact onlyChanges_afterDraw.trans onlyChanges_afterDraw p (not_or.mpr ⟨hpix, hp⟩)

end Sys2Proof

/-! PROOFS. The statements of the family 45_keypad_timers.md. The two key skips are one operation at two levels, which skips
or raises by the index alone; the key wait is split by what the key search finds; a timer instruction is one write, followed
over the step by the tick. -/

namespace Sys2Proof

open Sys2Proof.Machine

/-! ### The key wait -/

/-- Settles O29: the key the search finds is the only one pressed with none pressed below it; it finds none only when
every latch is clear. -/
theorem keyWaitStoresTheLeastKeyOrRewinds : Obligations.KeyWaitStoresTheLeastKeyOrRewinds := by
  intro x
  refine ⟨decodeWord_encode (.ldVxK x), fun s => ?_⟩
  rcases s.leastKey_cases with ⟨m, e, hm, hdown, hbelow⟩ | ⟨e, hnone⟩
  · have hexec : exec (.ldVxK x) s = .next (s.setReg x (BitVec.ofNat 8 m)) := by simp only [exec, execLdVxK, e]
    refine ⟨_, hexec, fun k _ hk hleast => ⟨?_, onlyChanges_setReg rfl⟩, fun h0 => ?_⟩
    · have hkm : ¬ k < m := fun h => Bool.false_ne_true ((hbelow k h).symm.trans hk)
      have hmk : ¬ m < k := fun h => Bool.false_ne_true ((hleast m h).symm.trans hdown)
      rw [reg_setReg_same, BitVec.toNat_ofNat]
      omega
    · simp [State.keyDown, h0] at hdown
  · have hexec : exec (.ldVxK x) s = .next (s.setPc (s.pc - 2#16)) := by simp only [exec, execLdVxK, e]
    refine ⟨_, hexec, fun k hk16 hk _ => ?_, fun _ => ⟨rfl, onlyChanges_setPc rfl⟩⟩
    exact absurd ((hnone k hk16).symm.trans hk) Bool.false_ne_true

/-! ### The key skips -/

section KeySkips
variable {s : State} {x : Reg} {level : Bool}

theorem keySkip_of_le (h : (s.reg x).toNat ≤ 15) :
    keySkip level x s = .next (s.skipIf (s.key.getLsbD (s.reg x).toNat == level)) :=
  if_neg (Nat.not_lt.mpr h)

/-- An index that names no latch is the address of the fault (decision D15). -/
theorem raises_of_keySkip {i : Instr} (hi : exec i s = keySkip level x s) (h : (s.reg x).toNat > 15) :
    Raises i s .keyIndexOutOfRange (s.reg x).toNat :=
  raises_of_eq (hi.trans (if_pos h)) (BitVec.ofNat_toNat 16 (s.reg x)).symm

end KeySkips

/-- Settles O27: a skip at the level pressed. -/
theorem skipIfPressed : Obligations.SkipIfPressed := by
  intro x
  refine ⟨decodeWord_encode (.skp x), fun s => ⟨fun hin => ?_, fun hr hin => ?_, raises_of_keySkip rfl⟩⟩
  · exact exec_skip (keySkip_of_le hin) (by rw [skipTo, beq_true])
  · exact hr.skip_completes (keySkip_of_le hin) (by rw [beq_true]; rfl)

/-- Settles O28: a skip at the level of the parameter: not pressed, or with the quirk pressed. -/
theorem skipIfNotPressed : Obligations.SkipIfNotPressed := by
  intro x
  refine ⟨decodeWord_encode (.sknp x), fun s =>
    ⟨fun hq hin => ?_, fun hq hin => ?_, fun hr hin => ?_, raises_of_keySkip rfl⟩⟩
  · exact exec_skip (keySkip_of_le hin) (by rw [hq]; cases s.key.getLsbD _ <;> rfl)
  · exact exec_skip (keySkip_of_le hin) (by rw [hq, skipTo, beq_true])
  · exact hr.skip_completes (keySkip_of_le hin) (by simp only [beq_iff_eq]; rfl)

/-! ### The timers -/

/-- The tick of the delay timer is the subtraction that stops at 0 (40_cycle.md R125). -/
theorem toNat_tickDelay_eq_sub (b : Byte) : (tickDelay b).toNat = b.toNat - 1 := by
  rw [toNat_tickDelay]
  split <;> omega

/-- Settles O30: each execute phase is one write; the tick that ends the step leaves the registers, so Fx07 keeps the value
from before it, while Fx15 and Fx18 end with the byte written ticked. -/
theorem timerInstructionsMoveBytes : Obligations.TimerInstructionsMoveBytes := by
  intro x
  refine ⟨decodeWord_encode (.ldVxDt x), decodeWord_encode (.ldDtVx x), decodeWord_encode (.ldStVx x), fun s =>
    ⟨exec_setReg rfl, ⟨_, rfl, rfl, onlyChanges_setDt rfl⟩, ⟨_, rfl, rfl, onlyChanges_setSt rfl⟩,
      fun hr => ?_, fun hr => ?_, fun hr => ?_⟩⟩
  · exact ⟨_, hr.completes rfl hr.1, reg_setReg_same s.latched x s.dt, toNat_tickDelay_eq_sub s.dt⟩
  · exact ⟨_, hr.completes rfl hr.1, toNat_tickDelay_eq_sub (s.reg x)⟩
  · exact ⟨_, hr.completes rfl hr.1, toNat_tickSound (s.reg x)⟩

end Sys2Proof

/-! PROOFS. The statements of the family 60_exceptions.md. A fault is one of three: of the fetch, of the decoding, or of an
execute phase that raises; each names its record, and the clauses about precise faults are read off from it. -/

namespace Sys2Proof

open Sys2Proof.Machine

/-- Settles O38: the step throws the raising execute phase away but for its record. -/
theorem raisedFaultDiscardsTheStep : Obligations.RaisedFaultDiscardsTheStep := by
  intro s i t hr ht hh
  have hstep : step s = .next (s.enterFault t.fault) := (step_of_runs hr ht).trans (by rw [if_pos hh])
  exact ⟨_, hstep, rfl, rfl, onlyChanges_enterFault (by simp) (by simp)⟩

/-! ### What a faulting step can be -/

section Faulting
variable {s t : State} {i : Instr} {k : FaultKind} {a : Word}

/-- The record of a raise `k` with the address `a` in the execute phase of the step from `s` (60_exceptions.md R260). -/
def Machine.State.raiseRecord (s : State) (k : FaultKind) (a : Word) : FaultRecord :=
  { kind := k, opcodeValid := true, opcode := s.wordAt s.fetchAddr.toNat, addr := a }

theorem raise_latched : raise k a s.latched = .next (s.latched.enterFault (s.raiseRecord k a)) := rfl

/-- An execute phase that ends halted has raised. -/
theorem exec_raised (h : exec i s.latched = .next t) (hs : s.halted = false) (ht : t.halted = true) :
    ∃ k a, RaisedAs i s.latched k a ∧ t.fault = s.raiseRecord k a := by
  rcases exec_cases i s.latched with ⟨u, e, hu, -⟩ | ⟨k, a, e, hk⟩
  · cases e.symm.trans h
    exact absurd (hu.trans hs) (by simp [ht])
  · cases (e.trans raise_latched).symm.trans h
    exact ⟨k, a, hk, rfl⟩

/-- A faulting step enters, from the state before it, the fault of the fetch, of the decoding or of an execute phase, in the
order of 60_exceptions.md R267. -/
theorem faults_cases (h : Faults s t) : ∃ r, t = s.enterFault r ∧
    ((s.fetchAddr.toNat + 1 > 0xFFF ∧ r = fetchFault s.fetchAddr) ∨
     (s.fetchAddr.toNat + 1 ≤ 0xFFF ∧ (∃ e, decodeWord (s.wordAt s.fetchAddr.toNat) = .error e) ∧
       r = decodeFault (s.wordAt s.fetchAddr.toNat) s.fetchAddr) ∨
     (s.fetchAddr.toNat + 1 ≤ 0xFFF ∧ ∃ i k a, Runs s i ∧ RaisedAs i s.latched k a ∧ r = s.raiseRecord k a)) := by
  obtain ⟨hs, hstep, ht⟩ := h
  rcases step_cases s with ⟨hh, -⟩ | ⟨-, ha, e⟩ | ⟨-, ha, hd, e⟩ | ⟨-, ha, i, u, hd, hu, e⟩
  · exact absurd hh (by simp [hs])
  · cases e.symm.trans hstep
    exact ⟨_, rfl, .inl ⟨ha, rfl⟩⟩
  · cases e.symm.trans hstep
    exact ⟨_, rfl, .inr (.inl ⟨ha, hd, rfl⟩)⟩
  · cases e.symm.trans hstep
    by_cases hu' : u.halted = true
    · obtain ⟨k, a, hk, hr⟩ := exec_raised hu hs hu'
      exact ⟨_, if_pos hu', .inr (.inr ⟨ha, i, k, a, ⟨hs, ha, hd⟩, hk, hr⟩)⟩
    · rw [if_neg hu'] at ht
      exact absurd ht hu'

end Faulting

/-- Settles O39: the frame and the repeated report are those of entering any fault; the clauses about the record hold by what
it is after a fetch, after a decoding, and after each of the four raises of `RaisedAs`. -/
theorem faultsArePrecise : Obligations.FaultsArePrecise := by
  intro s t h
  obtain ⟨r, rfl, hr⟩ := faults_cases h
  refine ⟨onlyChanges_enterFault (by simp) (by simp), step_of_halted rfl, ?_⟩
  rw [State.fault_enterFault]
  rcases hr with ⟨ha, rfl⟩ | ⟨ha, hd, rfl⟩ | ⟨ha, i, k, a, hi, hk, rfl⟩
  · exact ⟨nofun, iff_of_true rfl ha, nofun, fun _ => ⟨rfl, toNat_addr_fetchFault ha⟩, nofun, nofun, nofun, nofun,
      nofun⟩
  · exact ⟨nofun, iff_of_false nofun (Nat.not_lt.mpr ha), fun _ => rfl, nofun, fun _ => ⟨rfl, hd⟩, nofun, nofun, nofun,
      nofun⟩
  · have hkind : k ≠ .noFault := fun e => by subst e; exact hk
    refine ⟨hkind, iff_of_false nofun (Nat.not_lt.mpr ha), fun _ => rfl, nofun, ?_⟩
    cases k with
    | noFault | decodeFailure => exact hk.elim
    | stackOverflow =>
      obtain ⟨⟨nnn, rfl⟩, hsp, rfl⟩ := hk
      exact ⟨nofun, fun _ => ⟨rfl, hsp, nnn, hi⟩, nofun, nofun, nofun⟩
    | stackUnderflow =>
      obtain ⟨rfl, hsp, rfl⟩ := hk
      exact ⟨nofun, nofun, fun _ => ⟨rfl, hsp, hi⟩, nofun, nofun⟩
    | outOfRangeAccess =>
      obtain ⟨hrows, haddr⟩ := hk
      refine ⟨nofun, nofun, nofun, fun _ _ => ⟨haddr, ?_⟩, nofun⟩
      obtain ⟨x, y, n, rfl⟩ | ⟨x, rfl | rfl | rfl⟩ := hrows
      · exact .inl ⟨x, y, n, hi⟩
      · exact .inr ⟨x, .inl hi⟩
      · exact .inr ⟨x, .inr (.inl hi)⟩
      · exact .inr ⟨x, .inr (.inr hi)⟩
    | keyIndexOutOfRange =>
      obtain ⟨x, hx, hv, rfl⟩ := hk
      refine ⟨nofun, nofun, nofun, nofun, fun _ => ⟨x, ?_, hv, BitVec.toNat_setWidth_of_le (by decide)⟩⟩
      obtain rfl | rfl := hx
      · exact .inl hi
      · exact .inr hi

end Sys2Proof

/-! PROOFS. The statements of the family 70_reset_and_hazards.md. A self-jump is an execute phase that undoes the advance of
the fetch; the loader is one write of several bytes; the empty machine fetches the word 0x0000 at the entry, whatever the
font, and the decoder refuses it. -/

namespace Sys2Proof

open Sys2Proof.Machine

/-! ### Steps that run again -/

/-- An execute phase that only puts `pc` back where it was before the step leaves the latch and the timers changed and the
same instruction to be run. -/
theorem Runs.repeats {s : State} {i : Instr} (hr : Runs s i) (hi : exec i s.latched = .next (s.latched.setPc s.pc)) :
    ∃ t, Completes s t ∧ OnlyChanges (· ∈ [.opcode, .dt, .st]) s t ∧ Runs t i := by
  have hc : Completes s (s.latched.setPc s.pc).tick := hr.completes hi hr.1
  have latch : OnlyChanges (· ∈ [.opcode, .dt, .st]) s (s.latched.setPc s.pc) :=
    onlyChanges_setOpcode (w := s.wordAt s.fetchAddr.toNat) (by simp)
  exact ⟨_, hc, latch.trans (onlyChanges_tick (by simp) (by simp)), hr.of_same_fetch hc.2 rfl rfl⟩

/-- Settles O49: the target is the `pc` from before the step. -/
theorem selfJumpRepeats : Obligations.SelfJumpRepeats := by
  intro s nnn hr hpc
  have htarget : exec (.jp nnn) s.latched = .next (s.latched.setPc s.pc) := by
    rw [hpc]
    rfl
  exact hr.repeats htarget

/-! ### The loader -/

section Loader
variable {s : State} {image : List Byte}

theorem loadProgram_of_le (h : image.length ≤ 3584) :
    s.loadProgram image = some (s.setMem (s.mem.writeList 0x200 image)) :=
  if_pos h

theorem loadProgram_of_gt (h : 3584 < image.length) : s.loadProgram image = none :=
  if_neg (Nat.not_le.mpr h)

end Loader

/-- Settles O58: an image that is loaded ends inside memory, so a read after the write of its bytes gives them back. -/
theorem loaderCopiesTheImage : Obligations.LoaderCopiesTheImage := by
  intro s image hwf
  refine ⟨fun hfits => ?_, loadProgram_of_gt⟩
  have hinside : 0x200 + image.length ≤ Config.memSize := by rw [Config.memSize]; omega
  refine ⟨_, loadProgram_of_le hfits, Memory.wf_writeList image 0x200 hwf, fun j hj => ?_,
    onlyChanges_writeList fun _ hp => hp⟩
  refine (Memory.read_writeList image 0x200 (0x200 + j) hwf hinside).trans ?_
  rw [if_pos (by omega), Nat.add_sub_cancel_left]

/-! ### The empty machine -/

theorem decodeWord_zero : decodeWord 0x0000#16 = .error .illegal0nnn := rfl

section Empty
variable (p : Params)

theorem fetchAddr_resetWith : (State.resetWith p).fetchAddr = 0x0200#16 := rfl

/-- Above the font reset leaves 0x00 (10_state.md R42). -/
theorem readByte_resetWith_above_font {a : Nat} (h : 0x0A0 ≤ a) : (State.resetWith p).readByte a = 0x00#8 := by
  have hout : ¬ (Config.fontBase ≤ a ∧ a < Config.fontBase + 80) := by rw [Config.fontBase]; omega
  rw [State.readByte_resetWith, if_neg hout]
  exact if_neg hout

/-- The word at the entry, before a program is loaded. -/
theorem wordAt_entry_resetWith : (State.resetWith p).wordAt 0x200 = 0x0000#16 := by
  rw [State.wordAt, readByte_resetWith_above_font p (by omega), readByte_resetWith_above_font p (by omega)]
  rfl

end Empty

/-- Settles O57: the word at the entry is one the decoder refuses. -/
theorem emptyMachineFaultsAtTheEntry : Obligations.EmptyMachineFaultsAtTheEntry := by
  intro p
  have hword := wordAt_entry_resetWith p
  have hstep := step_of_decode_error (s := State.resetWith p) rfl (by rw [fetchAddr_resetWith]; decide)
    ((congrArg decodeWord hword).trans decodeWord_zero)
  refine ⟨_, hstep, rfl, ?_, onlyChanges_enterFault (by simp) (by simp)⟩
  exact congrArg (decodeFault · 0x0200#16) hword

end Sys2Proof

/-! PROOFS. The statements of the family other. The unit stops only where it is halted, since the fetch, the decoding and
every execute phase answer a next state; and the pieces, each read through its accessor, make up every field of the state. -/

namespace Sys2Proof

open Sys2Proof.Machine

/-- Settles O32: of the cases of a step, the halted unit's alone is no next state. -/
theorem unhaltedStepAnswersNext : Obligations.UnhaltedStepAnswersNext := by
  intro s hs
  rcases step_cases s with ⟨hh, -⟩ | ⟨-, -, hfetch⟩ | ⟨-, -, -, hdecode⟩ | ⟨-, -, i, t, -, -, hexec⟩
  · rw [hs] at hh
    cases hh
  · exact ⟨_, hfetch⟩
  · exact ⟨_, hdecode⟩
  · exact ⟨_, hexec⟩

/-- Memories in canonical form are equal when they read the same at every address. -/
theorem mem_eq_of_readByte {s t : State} (hs : s.mem.wf = true) (ht : t.mem.wf = true)
    (h : ∀ a, t.readByte a = s.readByte a) : t.mem = s.mem :=
  Memory.eq_of_read t.mem s.mem ht hs h

/-- Settles O55: the registers, the stack, memory and the framebuffer are determined by what their entries read as; every other
field is a piece itself. -/
theorem samePiecesAreTheSameState : Obligations.SamePiecesAreTheSameState := by
  intro s t hs ht same
  have hv : t.v = s.v := State.v_eq_of_reg fun x => same (.reg x)
  have hstack : t.stack = s.stack := State.stack_eq_of_stackAt fun j => same (.stack j)
  have hmem : t.mem = s.mem := mem_eq_of_readByte hs ht fun a => same (.memory a)
  have hvideo : t.video = s.video := State.video_eq_of_pixel fun py px => same (.pixel py px)
  exact State.ext_fields hv (same .index) (same .pc) hstack (same .sp) (same .dt) (same .st) (same .opcode)
    (same .halted) (same .fault) hmem hvideo (same .key) (same .draws) (same .exa1SourceQuirk)

end Sys2Proof
